-- ==== Sys2Proof/Word.lean ====
section
/-! DEFINITION. The word types of the block (00_scope R13, R17): bytes, 16-bit counters, 32-bit
durations and timestamps. -/

namespace Sys2Proof

/-- A byte: a command byte, a message byte, a configuration register (R13, R35). -/
abbrev Byte := BitVec 8

/-- A 16-bit pass-by counter (R13). -/
abbrev U16 := BitVec 16

/-- A 32-bit duration, debounce counter or millisecond timestamp (R13). -/
abbrev U32 := BitVec 32

end Sys2Proof
end

