-- ==== Sys2Proof/Syntax.lean ====
section
/-! DEFINITION. The instructions of the block: one constructor per mnemonic of
spec/opcode_table.json. The first ten are the inbound command bytes (30_encoding R101), the other
eleven the outbound messages (30_encoding R110). Log entry 8. -/

namespace Sys2Proof

inductive Instr where
  /-- `ECHO c`: the whole byte (R262). -/
  | echo (c : Byte)
  /-- `SETERR s`: the error threshold in seconds (R263). -/
  | setErr (s : Byte)
  /-- `SETOFF v`: threshold_off (R264). -/
  | setOff (v : Byte)
  /-- `SETON v`: threshold_on (R265). -/
  | setOn (v : Byte)
  /-- `SETLEN n` with `n = 2^e`: the window length, by its exponent (R101, R267). -/
  | setLen (e : Byte)
  /-- `GETLEN` (R269). -/
  | getLen
  /-- `GETON` (R270). -/
  | getOn
  /-- `GETOFF` (R271). -/
  | getOff
  /-- `GETERR` (R272). -/
  | getErr
  /-- `.byte b` for a byte of the INVALID class (R274). -/
  | invalid (b : Byte)
  /-- `MsgAxle(on, off)`: on and off durations in ticks (R240). -/
  | msgAxle (on off : U32)
  /-- `MsgAxleErr(off)`: off duration in ticks (R241). -/
  | msgAxleErr (off : U32)
  /-- `MsgSetupOk(c)` (R242). -/
  | msgSetupOk (c : Byte)
  /-- `MsgSetupErr(c)` (R243). -/
  | msgSetupErr (c : Byte)
  /-- `MsgRepOn(v)` (R244). -/
  | msgRepOn (v : Byte)
  /-- `MsgRepOff(v)` (R245). -/
  | msgRepOff (v : Byte)
  /-- `MsgRepErr(v)` (R246). -/
  | msgRepErr (v : Byte)
  /-- `MsgRepLen(v)` (R247). -/
  | msgRepLen (v : Byte)
  /-- `MsgStart(pid, ts)` (R248). -/
  | msgStart (pid : U16) (ts : U32)
  /-- `MsgStop(pid, n)` (R249). -/
  | msgStop (pid n : U16)
  /-- `MsgEcho(c)` (R250). -/
  | msgEcho (c : Byte)
deriving DecidableEq, Repr

end Sys2Proof
end

