-- ==== Sys2Proof/WellFormed.lean ====
section
/-! DEFINITION. Which instruction terms the spec's encodings can express: the operand constraints of
30_encoding R101 and R112, and of 44_messages R250. Log entry 10. -/

namespace Sys2Proof

/-- The INVALID class of R101: 0, 5..10, 16..19, 60, 65..239. -/
def invalidByte (b : Byte) : Bool :=
  let n := b.toNat
  n == 0 || (5 ≤ n && n ≤ 10) || (16 ≤ n && n ≤ 19) || n == 60 || (65 ≤ n && n ≤ 239)

/-- The ECHO class of R101: 0xF0 and above. -/
def echoByte (b : Byte) : Bool := 0xF0 ≤ b.toNat

/-- The operands an encoding can carry (R101, R112, R250). -/
def Instr.wellFormed : Instr → Bool
  | .echo c => echoByte c
  | .setErr s => s.toNat ≤ 3
  | .setOff v => v.toNat ≤ 19
  | .setOn v => v.toNat ≤ 19
  | .setLen e => 1 ≤ e.toNat && e.toNat ≤ 5
  | .getLen => true
  | .getOn => true
  | .getOff => true
  | .getErr => true
  | .invalid b => invalidByte b
  | .msgAxle _ _ => true
  | .msgAxleErr _ => true
  | .msgSetupOk _ => true
  | .msgSetupErr _ => true
  | .msgRepOn _ => true
  | .msgRepOff _ => true
  | .msgRepErr _ => true
  | .msgRepLen _ => true
  | .msgStart _ _ => true
  | .msgStop _ _ => true
  | .msgEcho c => echoByte c

end Sys2Proof
end

