-- ==== Sys2Proof/Decode.lean ====
section
/-! DEFINITION. Decoding (total on any bytes, rejecting by name) and encoding, from the class table of
30_encoding R101 and the header table of R110. One byte is a command; two bytes or more are a
message payload (R100). Log entries 8, 9. -/

namespace Sys2Proof

/-- `le16` (R80): least significant byte first. -/
def le16 (v : U16) : List Byte :=
  [v.extractLsb' 0 8, v.extractLsb' 8 8]

/-- `le32` (R80): least significant byte first. -/
def le32 (v : U32) : List Byte :=
  [v.extractLsb' 0 8, v.extractLsb' 8 8, v.extractLsb' 16 8, v.extractLsb' 24 8]

/-- The 16-bit value of two bytes sent least significant first (R80). -/
def fromLe16 (b0 b1 : Byte) : U16 := b0.setWidth 16 ||| b1.setWidth 16 <<< 8

/-- The 32-bit value of four bytes sent least significant first (R80). -/
def fromLe32 (b0 b1 b2 b3 : Byte) : U32 :=
  b0.setWidth 32 ||| b1.setWidth 32 <<< 8 ||| b2.setWidth 32 <<< 16 ||| b3.setWidth 32 <<< 24

/-- Why bytes are no instruction of the block. -/
inductive DecodeError where
  /-- No byte at all. -/
  | noBytes
  /-- The first byte of a payload is no header of R110 ("No other header value is ever sent"). -/
  | unknownHeader (h : Byte)
  /-- The payload has not the length R110 gives its header. -/
  | payloadLength (h : Byte)
  /-- An off duration with one of its top 2 bits set, which R240's scaling cannot produce. -/
  | offDurationRange
  /-- An echo reply whose echoed byte is no ECHO command (R250). -/
  | echoOperand (c : Byte)
deriving DecidableEq, Repr

/-- What decoding answers. -/
inductive Decoded where
  | instr (i : Instr)
  | rejected (why : DecodeError)
deriving DecidableEq, Repr

/-- The command classes of R101, tested in the source's order (R102, R261). -/
def decodeCommand (b : Byte) : Instr :=
  let n := b.toNat
  if 0xF0 ≤ n then .echo b
  else if 61 ≤ n ∧ n ≤ 64 then .setErr (b - 61)
  else if 40 ≤ n ∧ n ≤ 59 then .setOff (b - 40)
  else if 20 ≤ n ∧ n ≤ 39 then .setOn (b - 20)
  else if 11 ≤ n ∧ n ≤ 15 then .setLen (b - 10)
  else if n = 1 then .getLen
  else if n = 2 then .getOn
  else if n = 3 then .getOff
  else if n = 4 then .getErr
  else .invalid b

/-- A scaled duration read back as ticks (R10): `none` if its top 2 bits are not 0 (R240). -/
def unscale (d : U32) : Option U32 :=
  if d.toNat < 2 ^ 30 then some (d <<< 2) else none

/-- The payload layout of each header (R110), read back. The durations of the two axle messages are
the least ticks that scale to the payload's fields. -/
def decodePayload (h : Byte) (t : List Byte) : Decoded :=
  if h = 0x01 then
    match t with
    | [d, b0, b1, b2, b3] =>
      match unscale (fromLe32 b0 b1 b2 b3) with
      | some off => .instr (.msgAxle (d.setWidth 32 <<< 2) off)
      | none => .rejected .offDurationRange
    | _ => .rejected (.payloadLength h)
  else if h = 0x02 then
    match t with
    | [b0, b1, b2, b3] =>
      match unscale (fromLe32 b0 b1 b2 b3) with
      | some off => .instr (.msgAxleErr off)
      | none => .rejected .offDurationRange
    | _ => .rejected (.payloadLength h)
  else if h = 0x03 then
    match t with
    | [c] => .instr (.msgSetupOk c)
    | _ => .rejected (.payloadLength h)
  else if h = 0x04 then
    match t with
    | [c] => .instr (.msgSetupErr c)
    | _ => .rejected (.payloadLength h)
  else if h = 0x05 then
    match t with
    | [v] => .instr (.msgRepOn v)
    | _ => .rejected (.payloadLength h)
  else if h = 0x06 then
    match t with
    | [v] => .instr (.msgRepOff v)
    | _ => .rejected (.payloadLength h)
  else if h = 0x07 then
    match t with
    | [v] => .instr (.msgRepErr v)
    | _ => .rejected (.payloadLength h)
  else if h = 0x08 then
    match t with
    | [v] => .instr (.msgRepLen v)
    | _ => .rejected (.payloadLength h)
  else if h = 0x09 then
    match t with
    | [p0, p1, b0, b1, b2, b3] => .instr (.msgStart (fromLe16 p0 p1) (fromLe32 b0 b1 b2 b3))
    | _ => .rejected (.payloadLength h)
  else if h = 0x0A then
    match t with
    | [p0, p1, n0, n1] => .instr (.msgStop (fromLe16 p0 p1) (fromLe16 n0 n1))
    | _ => .rejected (.payloadLength h)
  else if h = 0xF1 then
    match t with
    | [c] => if echoByte c then .instr (.msgEcho c) else .rejected (.echoOperand c)
    | _ => .rejected (.payloadLength h)
  else .rejected (.unknownHeader h)

/-- Decoding of any byte list (R100): one byte is a command, more are a message payload. -/
def decode : List Byte → Decoded
  | [] => .rejected .noBytes
  | [b] => .instr (decodeCommand b)
  | h :: b :: t => decodePayload h (b :: t)

/-- The bytes of an instruction: the command byte of R101 and R112, or the payload layout of R110. -/
def encode : Instr → List Byte
  | .echo c => [c]
  | .setErr s => [61 + s]
  | .setOff v => [40 + v]
  | .setOn v => [20 + v]
  | .setLen e => [10 + e]
  | .getLen => [1]
  | .getOn => [2]
  | .getOff => [3]
  | .getErr => [4]
  | .invalid b => [b]
  | .msgAxle on off => 0x01 :: (on >>> 2).setWidth 8 :: le32 (off >>> 2)
  | .msgAxleErr off => 0x02 :: le32 (off >>> 2)
  | .msgSetupOk c => [0x03, c]
  | .msgSetupErr c => [0x04, c]
  | .msgRepOn v => [0x05, v]
  | .msgRepOff v => [0x06, v]
  | .msgRepErr v => [0x07, v]
  | .msgRepLen v => [0x08, v]
  | .msgStart pid ts => 0x09 :: (le16 pid ++ le32 ts)
  | .msgStop pid n => 0x0A :: (le16 pid ++ le16 n)
  | .msgEcho c => [0xF1, c]

/-- The instruction that the wire keeps: the durations of the axle messages lose what R240's scaling
by 4 and its 8-bit field drop; every other operand travels whole. -/
def onWire : Instr → Instr
  | .msgAxle on off => .msgAxle (((on >>> 2).setWidth 8).setWidth 32 <<< 2) ((off >>> 2) <<< 2)
  | .msgAxleErr off => .msgAxleErr ((off >>> 2) <<< 2)
  | i => i

/-- The payload length of each header (R110); 0 for a byte that is no header. -/
def payloadLength (h : Byte) : Nat :=
  if h = 0x01 then 6
  else if h = 0x02 then 5
  else if h = 0x09 then 7
  else if h = 0x0A then 5
  else if h = 0x03 ∨ h = 0x04 ∨ h = 0x05 ∨ h = 0x06 ∨ h = 0x07 ∨ h = 0x08 ∨ h = 0xF1 then 2
  else 0

/-- The `n` bytes of `w`, bits 7..0 first. -/
def tableBytes : Nat → Nat → List Byte
  | 0, _ => []
  | n + 1, w => BitVec.ofNat 8 w :: tableBytes n (w / 256)

/-- A word of spec/opcode_table.json through the decoder: 8 bits are a command byte, more bits a
message payload of its header's length (R100). Log entry 8. -/
def decodeTableWord (nbits w : Nat) : Option Instr :=
  let size := if nbits ≤ 8 then 1 else max ((nbits + 7) / 8) (payloadLength (BitVec.ofNat 8 w))
  match decode (tableBytes size w) with
  | .instr i => some i
  | .rejected _ => none

end Sys2Proof
end

