-- ==== Sys2Proof/Config.lean ====
section
/-! DEFINITION. What a build fixes (00_scope R7 to R16, 10_state R49), the input ports of a step
(10_state R31), and the values the spec leaves free (opaque constants, without a body). -/

namespace Sys2Proof

/-- `FRONTEND` (R11): the v1/v2 moving-sum front end or the v4 edge-and-timer front end. -/
inductive FrontEnd where
  | movsum
  | debounce
deriving DecidableEq, Repr

/-- The build parameters (R7, R9, R11, R12; 93 I15). They are not state (R49). -/
structure Params where
  /-- `FRONTEND` (R11). -/
  frontend : FrontEnd
  /-- `TICK_HZ` (R7). -/
  tickHz : Nat
  /-- `DEBOUNCE_MS` (R9). -/
  debounceMs : Nat
  /-- `DEF_SUM_LEN` (R12). -/
  defSumLen : Byte
  /-- `DEF_THR_ON` (R12). -/
  defThrOn : Byte
  /-- `DEF_THR_OFF` (R12). -/
  defThrOff : Byte
  /-- `DEF_THR_ERR_S` (R12). -/
  defThrErrS : Byte
deriving DecidableEq, Repr

/-- The spec's reference values (R7, R9, R11, R12). Log entry 2. -/
def Params.reference : Params :=
  { frontend := .movsum, tickHz := 2000, debounceMs := 3
    defSumLen := 4, defThrOn := 1, defThrOff := 1, defThrErrS := 3 }

/-- The input ports of one step (R31). `tick` is the step itself. -/
structure Inputs where
  /-- `cell_in`: true is the "wheel present" level. -/
  cellIn : Bool
  /-- `arm_in`: true is armed requested. -/
  armIn : Bool
  /-- `sleep_in`: the sleep request level. -/
  sleepIn : Bool
  /-- `ms_now`: the free-running millisecond counter. -/
  msNow : U32
  /-- `rx_valid`: a received byte is offered. -/
  rxValid : Bool
  /-- `rx_byte`: the offered byte. -/
  rxByte : Byte
  /-- `tx_ready`: the transmitter accepts one byte. -/
  txReady : Bool
deriving DecidableEq, Repr, Inhabited

namespace Config

/-- The host's inputs in a tick for which nothing is scheduled: free (R49). Log entry 1. -/
opaque hostInputs : Nat → Inputs

/-- `ind_status` while the session is IDLE, drawn freely each step (R46, R299; 93 I3). Log entry 4. -/
opaque idleStatus : Nat → Bool

/-- The identity string of the block (R3). No port shows it. -/
def identity : String := "LRM-CORE-v7"

/-- `MAX_WINDOW` (R8): the capacity of `ms_buf`, in samples. -/
def maxWindow : Nat := 32

/-- `TXBUF_MAX` (R14): the capacity of `tx_buf`, in bytes. -/
def txBufMax : Nat := 16

/-- `DEC_MAX` (R14): the capacity of `dec_buf`, in bytes. -/
def decMax : Nat := 16

/-- `STOP_MS` (R9): the stop threshold, 3 s. -/
def stopMs : Nat := 3000

/-- `FRAME_START` (R15). -/
def frameStart : Byte := 0x7C

/-- `FRAME_STOP` (R15). -/
def frameStop : Byte := 0x7D

/-- `FRAME_ESC` (R15). -/
def frameEsc : Byte := 0x7E

end Config

end Sys2Proof
end

