-- ==== Sys2Proof/Machine/State.lean ====
section
/-! DEFINITION. The state of the block (10_state), its memories as plain data, the reasons a step can
stop, and reset. Registers are grouped by the engine that owns them (R48). -/

namespace Sys2Proof.Machine

/-- A memory of elements of `w` bits: (index, element) pairs in canonical form, indices strictly
rising, no element equal to 0, what an unlisted index reads as (20_memory R82). `Memory 8` is a list
of `Host.Cell`. Log entries 3, 19. -/
abbrev Memory (w : Nat) := List (Nat × BitVec w)

/-- The `wheel` register (R39): its 3 bits have eight encodings, of which 5..7 are unused (93 I7). -/
inductive Wheel where
  /-- Encoding 0. -/
  | off
  /-- Encoding 1. -/
  | on
  /-- Encoding 2. -/
  | onError
  /-- Encoding 3. -/
  | preOn
  /-- Encoding 4. -/
  | preOff
  /-- Encoding 5, unused. -/
  | unused5
  /-- Encoding 6, unused. -/
  | unused6
  /-- Encoding 7, unused. -/
  | unused7
deriving DecidableEq, Repr

/-- The `sess` register (R41): its 3 bits have eight encodings, of which 6 and 7 are unused (93 I7). -/
inductive Session where
  /-- Encoding 0. -/
  | idle
  /-- Encoding 1. -/
  | rdy
  /-- Encoding 2. -/
  | passbyOn
  /-- Encoding 3. -/
  | passbyOff
  /-- Encoding 4. -/
  | error
  /-- Encoding 5. -/
  | sleep
  /-- Encoding 6, unused. -/
  | unused6
  /-- Encoding 7, unused. -/
  | unused7
deriving DecidableEq, Repr

/-- The `dec_st` register (R43): its 2 bits have four encodings, of which 3 is unused (93 I7). -/
inductive DecoderMode where
  /-- Encoding 0. -/
  | hunt
  /-- Encoding 1. -/
  | body
  /-- Encoding 2. -/
  | esc
  /-- Encoding 3, unused. -/
  | unused3
deriving DecidableEq, Repr

/-- The configuration registers (R34, R35). -/
structure Cfg where
  /-- `sum_len`. -/
  sumLen : Byte
  /-- `thr_on`. -/
  thrOn : Byte
  /-- `thr_off`. -/
  thrOff : Byte
  /-- `thr_err_s`. -/
  thrErrS : Byte
deriving DecidableEq, Repr

/-- The MovingSum registers (R37). -/
structure MovSum where
  /-- `ms_len`. -/
  len : BitVec 6
  /-- `ms_sum`. -/
  sum : BitVec 6
  /-- `ms_idx`. -/
  idx : BitVec 5
  /-- `ms_buf`. -/
  buf : Memory 1
deriving DecidableEq, Repr

/-- The wheel registers (R39) and the debounce registers (R40). -/
structure WheelRegs where
  /-- `wheel`. -/
  wheel : Wheel
  /-- `on_dur`. -/
  onDur : U32
  /-- `off_dur`. -/
  offDur : U32
  /-- `t_on`. -/
  tOn : U32
  /-- `t_off`. -/
  tOff : U32
  /-- `prev_in`. -/
  prevIn : Bool
  /-- `dcnt`. -/
  dcnt : U32
  /-- `stop_armed`. -/
  stopArmed : Bool
  /-- `stop_cnt`. -/
  stopCnt : U32
deriving DecidableEq, Repr

/-- The indicator registers (R46). -/
structure Indicators where
  /-- `ind_axle`. -/
  axle : Bool
  /-- `ind_error`. -/
  error : Bool
deriving DecidableEq, Repr

/-- The session registers (R41). -/
structure SessionRegs where
  /-- `sess`. -/
  sess : Session
  /-- `axle_count`. -/
  axleCount : U16
  /-- `passby_count`. -/
  passbyCount : U16
  /-- `error_count`. -/
  errorCount : U16
  /-- `pb_started`. -/
  pbStarted : Bool
  /-- `passby_t0`. -/
  passbyT0 : U32
  /-- `last_axle_ts`. -/
  lastAxleTs : U32
deriving DecidableEq, Repr

/-- The staging registers (R42). -/
structure Staging where
  /-- `tx_buf`. -/
  buf : Memory 8
  /-- `tx_len`. -/
  len : BitVec 5
  /-- `tx_pos`. -/
  pos : BitVec 5
deriving DecidableEq, Repr

/-- The frame decoder registers (R43). -/
structure DecoderRegs where
  /-- `dec_st`. -/
  st : DecoderMode
  /-- `dec_buf`. -/
  buf : Memory 8
  /-- `dec_len`. -/
  len : BitVec 5
deriving DecidableEq, Repr

/-- The serial outputs driven in the last step (R33). The indicators are registers, and `ind_status`
is computed (R299). -/
structure Outputs where
  /-- `rx_ack`. -/
  rxAck : Bool
  /-- `some b` is `tx_valid = 1` with `tx_byte = b`; `none` is `tx_valid = 0`, where R33 gives
  `tx_byte` no value. Log entry 5. -/
  tx : Option Byte
deriving DecidableEq, Repr

/-- The MODEL's view of the host, no state of the block (R30, R49). Log entry 1. -/
structure HostSide where
  /-- The inputs scheduled for the next ticks, the next one first. -/
  stim : List Inputs
  /-- The index of the next tick; it selects the free values of that tick. -/
  ticks : Nat
deriving DecidableEq, Repr

/-- The whole machine. `par` holds the build's parameters, which no step writes (R49, log entry 2);
`host` is the model's own (log entry 1); every other field is a table of 10_state. -/
structure State where
  par : Params
  cfg : Cfg
  ms : MovSum
  wh : WheelRegs
  ind : Indicators
  ss : SessionRegs
  tx : Staging
  dec : DecoderRegs
  out : Outputs
  host : HostSide
deriving DecidableEq, Repr

/-- A wheel event (R45): a value of one step, not state. -/
inductive WheelEvent where
  | none
  /-- `W_ON`: commit to ON. -/
  | wOn
  /-- `W_AXLE(on, off, ton, toff)`: commit to OFF, ending an axle. -/
  | wAxle (on off ton toff : U32)
  /-- `W_ERR(off)`: ON to ON_ERROR. -/
  | wErr (off : U32)
  /-- `W_REC`: ON_ERROR to OFF. -/
  | wRec
  /-- `W_STOP`: the stop condition. -/
  | wStop
deriving DecidableEq, Repr

/-- Why the machine stops. Each constructor is raised only in a state that no run from reset reaches,
where the spec says that a model faults; every one is safe (the model stops where it claims
nothing). -/
inductive Fault where
  /-- Raised by the wheel phase on `wheel` = PRE_ON or PRE_OFF under MOVSUM, or an encoding 5..7
  (41_wheel R170, 93 I7). Safe. -/
  | wheelEncoding
  /-- Raised by every phase that reads `sess` when it holds encoding 6 or 7 (93 I7). Safe. -/
  | sessionEncoding
  /-- Raised by `DecStep` when `dec_st` holds encoding 3 (93 I7). Safe. -/
  | decoderEncoding
  /-- Raised by `MS_Run` when `ms_len` is 0 or above 32, a window no setup can have loaded
  (40_movsum R132, R138; 93 I1). Safe. -/
  | windowLength
  /-- Raised by an access at an index outside its memory (20_memory R83, R84). Safe. -/
  | bufferIndex
deriving DecidableEq, Repr

/-- Why an operation is not accepted. -/
inductive Refusal where
  /-- Raised by an arm of `exec` that has no meaning yet; no arm of this model is one. Safe. -/
  | notModelled (mnemonic : String)
  /-- Raised by `MS_Setup(n)` with `n = 0` or `n > 32` (40_movsum R132, 93 I13). Safe. -/
  | setupOperand (n : Nat)
  /-- Raised by the stimulus runner when a line writes `rx` while an earlier byte is still offered,
  a program error (30_encoding R114). Safe. -/
  | stimulusProgram
deriving DecidableEq, Repr

/-- Power-on reset with the parameters `p` (R47, R340). The three buffers' contents are unspecified
in the spec and 0 here (log entry 3). -/
def State.resetWith (p : Params) : State :=
  { par := p
    cfg := { sumLen := p.defSumLen, thrOn := p.defThrOn, thrOff := p.defThrOff
             thrErrS := p.defThrErrS }
    ms := { len := p.defSumLen.setWidth 6, sum := 0, idx := 0, buf := [] }
    wh := { wheel := .off, onDur := 0, offDur := 0, tOn := 0, tOff := 0
            prevIn := false, dcnt := 0, stopArmed := false, stopCnt := 0 }
    ind := { axle := false, error := false }
    ss := { sess := .idle, axleCount := 0, passbyCount := 0, errorCount := 0
            pbStarted := false, passbyT0 := 0, lastAxleTs := 0 }
    tx := { buf := [], len := 0, pos := 0 }
    dec := { st := .hunt, buf := [], len := 0 }
    out := { rxAck := false, tx := none }
    host := { stim := [], ticks := 0 } }

/-- The machine right after power-on, built with the spec's reference parameters (R12, R47). -/
def State.reset : State := State.resetWith Params.reference

end Sys2Proof.Machine
end

