-- ==== Sys2Proof/Machine/Operands.lean ====
section
/-! DEFINITION. Operand computations: derived tick counts (00_scope R9), duration scaling (R10),
command operands (30_encoding R103), threshold validation (45_commands R266), the axle midpoint
(42_session R197), and the register encodings of the state machines (10_state R39, R41, R43). -/

namespace Sys2Proof.Machine

/-- `STOP_TICKS = STOP_MS * TICK_HZ / 1000`, truncating (R9). -/
def stopTicks (p : Params) : Nat := Config.stopMs * p.tickHz / 1000

/-- `DEB_TICKS = DEBOUNCE_MS * TICK_HZ / 1000`, truncating (R9). -/
def debTicks (p : Params) : Nat := p.debounceMs * p.tickHz / 1000

/-- `thr_err_ticks = thr_err_s * TICK_HZ`, recomputed wherever it is read (R9, R35). -/
def thrErrTicks (s : State) : Nat := s.cfg.thrErrS.toNat * s.par.tickHz

/-- A duration as put on the wire: `floor(d / SCALE)` with `SCALE = 4` (R10). -/
def scaled (d : U32) : U32 := d >>> 2

/-- The window length `n = 1 << e` of a SETLEN operand (R103). -/
def windowOfExponent (e : Byte) : Byte := 1 <<< e.toNat

/-- `v < n div 2` (R36, R266): the threshold `v` is legal for a window of `n` samples. -/
def thresholdLegal (v n : Byte) : Bool := decide (v.toNat < n.toNat / 2)

/-- The axle midpoint `(ton + ((toff - ton) mod 2^32) div 2) mod 2^32` (R197). -/
def midpoint (ton toff : U32) : U32 := ton + (toff - ton) / 2

/-- The session states R45 and R150 call armed. -/
def Session.armed : Session → Bool
  | .rdy => true
  | .passbyOn => true
  | .passbyOff => true
  | .error => true
  | .idle => false
  | .sleep => false
  | .unused6 => false
  | .unused7 => false

/-- The register encoding of `wheel` (R39). -/
def Wheel.bits : Wheel → BitVec 3
  | .off => 0
  | .on => 1
  | .onError => 2
  | .preOn => 3
  | .preOff => 4
  | .unused5 => 5
  | .unused6 => 6
  | .unused7 => 7

/-- The register encoding of `sess` (R41). -/
def Session.bits : Session → BitVec 3
  | .idle => 0
  | .rdy => 1
  | .passbyOn => 2
  | .passbyOff => 3
  | .error => 4
  | .sleep => 5
  | .unused6 => 6
  | .unused7 => 7

/-- The register encoding of `dec_st` (R43). -/
def DecoderMode.bits : DecoderMode → BitVec 2
  | .hunt => 0
  | .body => 1
  | .esc => 2
  | .unused3 => 3

end Sys2Proof.Machine
end

