-- ==== Sys2Proof/Machine/Flags.lean ====
section
/-! DEFINITION. The block has no condition codes (10_state R44). Its status outputs are the
indicators (R46): the updates of `ind_axle` and `ind_error`, and `ind_status` computed from `sess`. -/

namespace Sys2Proof.Machine

/-- `ind_status` at the end of a step (R46, R299): 1 when armed, 0 in SLEEP. In IDLE it is
unspecified and free in each step (93 I3, log entry 4). The unused encodings of `sess` have no
stated value and read the free value too. -/
def State.indStatus (s : State) : Bool :=
  match s.ss.sess with
  | .rdy => true
  | .passbyOn => true
  | .passbyOff => true
  | .error => true
  | .sleep => false
  | .idle => Config.idleStatus s.host.ticks
  | .unused6 => Config.idleStatus s.host.ticks
  | .unused7 => Config.idleStatus s.host.ticks

/-- `ind_axle <- v` (R46). -/
def State.setIndAxle (v : Bool) (s : State) : State :=
  { s with ind := { s.ind with axle := v } }

/-- `ind_error <- v` (R46). -/
def State.setIndError (v : Bool) (s : State) : State :=
  { s with ind := { s.ind with error := v } }

/-- Both indicators cleared: recovery, arming and disarming (R46). -/
def State.clearIndicators (s : State) : State :=
  { s with ind := { axle := false, error := false } }

end Sys2Proof.Machine
end

