-- ==== Sys2Proof/Machine/Ops.lean ====
section
/-! DEFINITION. The shared operations: element access to the three memories (00_scope R18, 20_memory
R82 to R84), sequencing of operations that may stop, the frame encoder (43_frame_codec R220), the
staging primitive (46_tick_step R297), the gate of the command phase (45_commands R260) and the
sampling of the input ports. The block takes no exception and returns from none (60_exceptions R310,
R318): its error entry and return are the wheel and session transitions. -/

namespace Sys2Proof.Machine

/-- What an operation that yields an `α` answers. -/
abbrev Result (α : Type) := Host.Outcome α Fault Refusal

/-- Run `f` on what `r` yields; a stop of `r` is the whole answer. -/
def andThen {α β : Type} (r : Result α) (f : α → Result β) : Result β :=
  match r with
  | .next a => f a
  | .fault e => .fault e
  | .refused e => .refused e

/-- `MemRead(m, a)` (R18): an unlisted index reads 0 (log entry 3). -/
def Memory.read {w : Nat} (m : Memory w) (a : Nat) : BitVec w :=
  match m with
  | [] => 0
  | (k, v) :: t => if k = a then v else Memory.read t a

/-- `MemWrite(m, a, v)` (R18), keeping the canonical form. -/
def Memory.write {w : Nat} (m : Memory w) (a : Nat) (v : BitVec w) : Memory w :=
  match m with
  | [] => if v = 0 then [] else [(a, v)]
  | (k, u) :: t =>
    if a < k then (if v = 0 then (k, u) :: t else (a, v) :: (k, u) :: t)
    else if a = k then (if v = 0 then t else (a, v) :: t)
    else (k, u) :: Memory.write t a v

/-- The canonical form, from index `lo` on, of a memory of `size` elements. -/
def Memory.wfFrom {w : Nat} (size lo : Nat) (m : Memory w) : Bool :=
  match m with
  | [] => true
  | (k, v) :: t => decide (lo ≤ k ∧ k < size) && (v != 0) && Memory.wfFrom size (k + 1) t

/-- The canonical form of a memory of `size` elements: indices strictly rising and below `size`, no
element 0. -/
def Memory.wf {w : Nat} (size : Nat) (m : Memory w) : Bool := Memory.wfFrom size 0 m

/-- The elements of `l` written at consecutive indices from `a` on. -/
def Memory.writeAll {w : Nat} (m : Memory w) (a : Nat) (l : List (BitVec w)) : Memory w :=
  match l with
  | [] => m
  | v :: t => Memory.writeAll (m.write a v) (a + 1) t

/-- The `n` elements from index `a` on. -/
def Memory.readAll {w : Nat} (m : Memory w) (a n : Nat) : List (BitVec w) :=
  match n with
  | 0 => []
  | n + 1 => m.read a :: Memory.readAll m (a + 1) n

/-- The three framing bytes of R15. -/
def framingByte (b : Byte) : Bool :=
  b == Config.frameStart || b == Config.frameStop || b == Config.frameEsc

/-- The payload bytes with FRAME_ESC before every framing byte (R105, R220). -/
def escaped : List Byte → List Byte
  | [] => []
  | b :: t => if framingByte b then Config.frameEsc :: b :: escaped t else b :: escaped t

/-- `FrameEncode(p)` (R220). -/
def frameEncode (p : List Byte) : List Byte :=
  Config.frameStart :: (escaped p ++ [Config.frameStop])

/-- The state with the frame `f` pending and none of it sent (R297). -/
def State.withFrame (f : List Byte) (s : State) : State :=
  { s with tx := { buf := s.tx.buf.writeAll 0 f, len := BitVec.ofNat 5 f.length, pos := 0 } }

/-- `Stage(p)` (R297): the framed payload replaces whatever is pending, with no report (R314). A
frame longer than `tx_buf` would be written outside it; no builder's payload makes one (R221). -/
def stage (p : List Byte) (s : State) : Result State :=
  if (frameEncode p).length ≤ Config.txBufMax then .next (s.withFrame (frameEncode p))
  else .fault .bufferIndex

/-- `rx_ack <- 1` (R293). -/
def State.ackRx (s : State) : State := { s with out := { s.out with rxAck := true } }

/-- When a command executes (R260, R293): in IDLE the byte is consumed and `run` acts; while armed it
is consumed and discarded; in SLEEP it is not consumed. -/
def whenIdle (run : State → Result State) (s : State) : Result State :=
  match s.ss.sess with
  | .idle => run s.ackRx
  | .rdy => .next s.ackRx
  | .passbyOn => .next s.ackRx
  | .passbyOff => .next s.ackRx
  | .error => .next s.ackRx
  | .sleep => .next s
  | .unused6 => .fault .sessionEncoding
  | .unused7 => .fault .sessionEncoding

/-- The inputs of the next step: the first scheduled sample, or free ones (R49, log entry 1). -/
def State.inputs (s : State) : Inputs :=
  match s.host.stim with
  | i :: _ => i
  | [] => Config.hostInputs s.host.ticks

/-- The start of a step: the inputs are taken from the host, and no byte is acknowledged or sent
yet (R290: `rx_ack <- 0`, `tx_valid <- 0`). -/
def State.beginStep (s : State) : State :=
  { s with
    out := { rxAck := false, tx := none }
    host := { stim := s.host.stim.tail, ticks := s.host.ticks + 1 } }

end Sys2Proof.Machine
end

