-- ==== Sys2Proof/Machine/Messages.lean ====
section
/-! DEFINITION. The message builders (44_messages R240 to R251) and the meaning of each outbound
message of the opcode table: its payload is framed and staged (30_encoding R108, 43_frame_codec
R222, 46_tick_step R297). -/

namespace Sys2Proof.Machine

/-- `MsgAxle(on, off)` (R240): both durations scaled down by 4, the first truncated to a byte. -/
def msgAxle (on off : U32) : List Byte :=
  0x01 :: (scaled on).setWidth 8 :: le32 (scaled off)

/-- `MsgAxleErr(off)` (R241). -/
def msgAxleErr (off : U32) : List Byte := 0x02 :: le32 (scaled off)

/-- `MsgSetupOk(c)` (R242). -/
def msgSetupOk (c : Byte) : List Byte := [0x03, c]

/-- `MsgSetupErr(c)` (R243). -/
def msgSetupErr (c : Byte) : List Byte := [0x04, c]

/-- `MsgRepOn(v)` (R244). -/
def msgRepOn (v : Byte) : List Byte := [0x05, v]

/-- `MsgRepOff(v)` (R245). -/
def msgRepOff (v : Byte) : List Byte := [0x06, v]

/-- `MsgRepErr(v)` (R246). -/
def msgRepErr (v : Byte) : List Byte := [0x07, v]

/-- `MsgRepLen(v)` (R247). -/
def msgRepLen (v : Byte) : List Byte := [0x08, v]

/-- `MsgStart(pid, ts)` (R248). -/
def msgStart (pid : U16) (ts : U32) : List Byte := 0x09 :: (le16 pid ++ le32 ts)

/-- `MsgStop(pid, n)` (R249). -/
def msgStop (pid n : U16) : List Byte := 0x0A :: (le16 pid ++ le16 n)

/-- `MsgEcho(c)` (R250). -/
def msgEcho (c : Byte) : List Byte := [0xF1, c]

/-- MSG_AXLE (R240). -/
def execMsgAxle (on off : U32) (s : State) : Result State := stage (msgAxle on off) s

/-- MSG_AXLE_ERR (R241). -/
def execMsgAxleErr (off : U32) (s : State) : Result State := stage (msgAxleErr off) s

/-- MSG_SETUP_OK (R242). -/
def execMsgSetupOk (c : Byte) (s : State) : Result State := stage (msgSetupOk c) s

/-- MSG_SETUP_ERR (R243). -/
def execMsgSetupErr (c : Byte) (s : State) : Result State := stage (msgSetupErr c) s

/-- MSG_REP_ON (R244). -/
def execMsgRepOn (v : Byte) (s : State) : Result State := stage (msgRepOn v) s

/-- MSG_REP_OFF (R245). -/
def execMsgRepOff (v : Byte) (s : State) : Result State := stage (msgRepOff v) s

/-- MSG_REP_ERR (R246). -/
def execMsgRepErr (v : Byte) (s : State) : Result State := stage (msgRepErr v) s

/-- MSG_REP_LEN (R247). -/
def execMsgRepLen (v : Byte) (s : State) : Result State := stage (msgRepLen v) s

/-- MSG_START (R248). -/
def execMsgStart (pid : U16) (ts : U32) (s : State) : Result State := stage (msgStart pid ts) s

/-- MSG_STOP (R249). -/
def execMsgStop (pid n : U16) (s : State) : Result State := stage (msgStop pid n) s

/-- MSG_ECHO (R250). -/
def execMsgEcho (c : Byte) (s : State) : Result State := stage (msgEcho c) s

end Sys2Proof.Machine
end

