-- ==== Sys2Proof/Machine/Commands.lean ====
section
/-! DEFINITION. The command set (45_commands R260 to R277). Each meaning checks the session state
(R260), and in IDLE changes its register and stages exactly one reply (R276), through the message
it names. -/

namespace Sys2Proof.Machine

/-- `sum_len <- n` (R267). -/
def State.setSumLen (n : Byte) (s : State) : State := { s with cfg := { s.cfg with sumLen := n } }

/-- `thr_on <- v` (R265). -/
def State.setThrOn (v : Byte) (s : State) : State := { s with cfg := { s.cfg with thrOn := v } }

/-- `thr_off <- v` (R264). -/
def State.setThrOff (v : Byte) (s : State) : State := { s with cfg := { s.cfg with thrOff := v } }

/-- `thr_err_s <- v` (R263). -/
def State.setThrErrS (v : Byte) (s : State) : State := { s with cfg := { s.cfg with thrErrS := v } }

/-- ECHO, byte `c` (R262). -/
def execEcho (c : Byte) (s : State) : Result State :=
  whenIdle (fun t => execMsgEcho c t) s

/-- SETERR, byte `61 + v` (R263): every operand is legal. -/
def execSetErr (v : Byte) (s : State) : Result State :=
  whenIdle (fun t => execMsgSetupOk (61 + v) (t.setThrErrS v)) s

/-- SETOFF, byte `40 + v` (R264): refused with a setup error unless `v < sum_len div 2`. -/
def execSetOff (v : Byte) (s : State) : Result State :=
  whenIdle (fun t =>
    if thresholdLegal v t.cfg.sumLen then execMsgSetupOk (40 + v) (t.setThrOff v)
    else execMsgSetupErr (40 + v) t) s

/-- SETON, byte `20 + v` (R265): refused with a setup error unless `v < sum_len div 2`. -/
def execSetOn (v : Byte) (s : State) : Result State :=
  whenIdle (fun t =>
    if thresholdLegal v t.cfg.sumLen then execMsgSetupOk (20 + v) (t.setThrOn v)
    else execMsgSetupErr (20 + v) t) s

/-- SETLEN, byte `10 + e` (R267): refused with a setup error unless both thresholds stay legal. The
active window `ms_len` is left alone (R268). -/
def execSetLen (e : Byte) (s : State) : Result State :=
  whenIdle (fun t =>
    if thresholdLegal t.cfg.thrOn (windowOfExponent e)
        && thresholdLegal t.cfg.thrOff (windowOfExponent e) then
      execMsgSetupOk (10 + e) (t.setSumLen (windowOfExponent e))
    else execMsgSetupErr (10 + e) t) s

/-- GETLEN, byte 1 (R269). -/
def execGetLen (s : State) : Result State :=
  whenIdle (fun t => execMsgRepLen t.cfg.sumLen t) s

/-- GETON, byte 2 (R270). -/
def execGetOn (s : State) : Result State :=
  whenIdle (fun t => execMsgRepOn t.cfg.thrOn t) s

/-- GETOFF, byte 3 (R271). -/
def execGetOff (s : State) : Result State :=
  whenIdle (fun t => execMsgRepOff t.cfg.thrOff t) s

/-- GETERR, byte 4 (R272). -/
def execGetErr (s : State) : Result State :=
  whenIdle (fun t => execMsgRepErr t.cfg.thrErrS t) s

/-- A byte of the INVALID class (R274). -/
def execInvalid (b : Byte) (s : State) : Result State :=
  whenIdle (fun t => execMsgSetupErr b t) s

end Sys2Proof.Machine
end

