-- ==== Sys2Proof/Machine/Dispatch.lean ====
section
/-! DEFINITION. exec: one arm per constructor of Instr, each one direct call of its meaning. -/

namespace Sys2Proof.Machine

def exec (i : Instr) (s : State) : Host.Outcome State Fault Refusal :=
  match i with
  | .echo c => Sys2Proof.Machine.execEcho c s
  | .setErr v => Sys2Proof.Machine.execSetErr v s
  | .setOff v => Sys2Proof.Machine.execSetOff v s
  | .setOn v => Sys2Proof.Machine.execSetOn v s
  | .setLen e => Sys2Proof.Machine.execSetLen e s
  | .getLen => Sys2Proof.Machine.execGetLen s
  | .getOn => Sys2Proof.Machine.execGetOn s
  | .getOff => Sys2Proof.Machine.execGetOff s
  | .getErr => Sys2Proof.Machine.execGetErr s
  | .invalid b => Sys2Proof.Machine.execInvalid b s
  | .msgAxle on off => Sys2Proof.Machine.execMsgAxle on off s
  | .msgAxleErr off => Sys2Proof.Machine.execMsgAxleErr off s
  | .msgSetupOk c => Sys2Proof.Machine.execMsgSetupOk c s
  | .msgSetupErr c => Sys2Proof.Machine.execMsgSetupErr c s
  | .msgRepOn v => Sys2Proof.Machine.execMsgRepOn v s
  | .msgRepOff v => Sys2Proof.Machine.execMsgRepOff v s
  | .msgRepErr v => Sys2Proof.Machine.execMsgRepErr v s
  | .msgRepLen v => Sys2Proof.Machine.execMsgRepLen v s
  | .msgStart pid ts => Sys2Proof.Machine.execMsgStart pid ts s
  | .msgStop pid n => Sys2Proof.Machine.execMsgStop pid n s
  | .msgEcho c => Sys2Proof.Machine.execMsgEcho c s

end Sys2Proof.Machine
end

