-- ==== Sys2Proof/Machine/MovingSum.lean ====
section
/-! DEFINITION. The MovingSum filter (40_movsum R130 to R138). -/

namespace Sys2Proof.Machine

/-- `MS_Init` (R130): binds the storage, which the block has as `ms_buf`; no computation. -/
def msInit (s : State) : State := s

/-- Index 0 to `n - 1` of a memory written with 0. -/
def Memory.clear {w : Nat} (m : Memory w) (n : Nat) : Memory w :=
  m.writeAll 0 (List.replicate n 0)

/-- `MS_Setup(n)` (R131): all 32 elements cleared, the new window loaded. Refused outside
`1 <= n <= MAX_WINDOW` (R132). -/
def msSetup (n : Nat) (s : State) : Result State :=
  if 1 ≤ n ∧ n ≤ Config.maxWindow then
    .next { s with ms := { len := BitVec.ofNat 6 n, sum := 0, idx := 0
                           buf := s.ms.buf.clear Config.maxWindow } }
  else .refused (.setupOperand n)

/-- The next write index, `(ms_idx + 1) mod ms_len` (R133). -/
def nextIndex (m : MovSum) : Nat := (m.idx.toNat + 1) % m.len.toNat

/-- `MS_Run(s)` (R133): advance the index, evict the sample there, adjust the sum, store. A window
length that no setup can have loaded gives the sum no meaning (R138), and faults. -/
def msRun (sample : Bool) (s : State) : Result State :=
  if 1 ≤ s.ms.len.toNat ∧ s.ms.len.toNat ≤ Config.maxWindow then
    let i := nextIndex s.ms
    let evicted := s.ms.buf.read i
    let new := BitVec.ofBool sample
    .next { s with ms := { s.ms with
      idx := BitVec.ofNat 5 i
      sum := s.ms.sum + new.setWidth 6 - evicted.setWidth 6
      buf := s.ms.buf.write i new } }
  else .fault .windowLength

/-- The sum of the `n` samples at indices `0 .. n-1`, which R135's invariant compares with `ms_sum`. -/
def bufferSum (m : Memory 1) (n : Nat) : Nat :=
  match n with
  | 0 => 0
  | n + 1 => bufferSum m n + (m.read n).toNat

end Sys2Proof.Machine
end

