-- ==== Sys2Proof/Machine/SessionPhase.lean ====
section
/-! DEFINITION. The event/session state machine (42_session R190 to R206). The messages it stages are
the opcode table's, through their own meanings. -/

namespace Sys2Proof.Machine

/-- `sess <- v`. -/
def State.setSession (v : Session) (s : State) : State := { s with ss := { s.ss with sess := v } }

/-- The registers Arm resets besides the MovingSum (R191). -/
def State.clearForArm (s : State) : State :=
  { s with
    wh := { wheel := .off, onDur := 0, offDur := 0, tOn := 0, tOff := 0
            prevIn := false, dcnt := 0, stopArmed := false, stopCnt := 0 }
    ind := { axle := false, error := false }
    ss := { s.ss with
      axleCount := 0, passbyCount := 0, errorCount := 0
      pbStarted := false, passbyT0 := 0, lastAxleTs := 0 } }

/-- `Arm()` (R191). -/
def arm (s : State) : Result State :=
  andThen (msSetup s.cfg.sumLen.toNat s) fun s => .next s.clearForArm

/-- Disarm (R194): STOP if a pass-by has started, then the pass-by is cleared and the session goes
to IDLE; the wheel and the filter are left as they are. -/
def disarm (s : State) : Result State :=
  andThen
    (if s.ss.pbStarted then execMsgStop s.ss.passbyCount s.ss.axleCount s else .next s)
    fun s =>
      .next (State.clearIndicators
        { s with ss := { s.ss with axleCount := 0, pbStarted := false, sess := .idle } })

/-- RDY on W_ON (R195). -/
def firstWheel (s : State) : State :=
  { s with ss := { s.ss with axleCount := 0, sess := .passbyOn } }

/-- PASSBY_ON on W_AXLE (R196, R197): START for the first axle of a pass-by, AXLE for a later one. -/
def axleDone (on off ton toff : U32) (s : State) : Result State :=
  let mid := midpoint ton toff
  let s := { s with ss := { s.ss with axleCount := s.ss.axleCount + 1 } }
  andThen
    (if s.ss.pbStarted then
      execMsgAxle on off { s with ss := { s.ss with lastAxleTs := mid - s.ss.passbyT0 } }
    else
      execMsgStart (s.ss.passbyCount + 1) mid
        { s with ss := { s.ss with
          pbStarted := true, passbyCount := s.ss.passbyCount + 1
          passbyT0 := mid, lastAxleTs := 0 } })
    fun s => .next (s.setSession .passbyOff)

/-- PASSBY_ON on W_ERR (R198). -/
def sensorError (off : U32) (s : State) : Result State :=
  andThen
    (execMsgAxleErr off { s with ss := { s.ss with errorCount := s.ss.errorCount + 1 } })
    fun s => .next (s.setSession .error)

/-- ERROR on W_REC (R201): a started pass-by resumes, else the session waits again. -/
def sensorRecovered (s : State) : State :=
  if s.ss.pbStarted then s.setSession .passbyOff
  else { s with ss := { s.ss with axleCount := 0, sess := .rdy } }

/-- PASSBY_OFF on W_STOP (R199). -/
def passbyStopped (s : State) : Result State :=
  andThen (execMsgStop s.ss.passbyCount s.ss.axleCount s) fun s =>
    .next { s with ss := { s.ss with axleCount := 0, pbStarted := false, sess := .rdy } }

/-- An armed state with `arm_in = 1` (R190, R202): every pair not listed is skipped (log entry 7). -/
def armedStep (ev : WheelEvent) (s : State) : Result State :=
  match s.ss.sess, ev with
  | .rdy, .wOn => .next (firstWheel s)
  | .passbyOff, .wOn => .next (s.setSession .passbyOn)
  | .passbyOn, .wAxle on off ton toff => axleDone on off ton toff s
  | .passbyOn, .wErr off => sensorError off s
  | .error, .wRec => .next (sensorRecovered s)
  | .passbyOff, .wStop => passbyStopped s
  | _, _ => .next s

/-- `SessionStep(ev)` (R190). -/
def sessionPhase (inp : Inputs) (ev : WheelEvent) (s : State) : Result State :=
  match s.ss.sess with
  | .idle =>
    if inp.armIn then andThen (arm s) fun s => .next (s.setSession .rdy)
    else if inp.sleepIn then .next (s.setSession .sleep)
    else .next s
  | .sleep => if inp.sleepIn then .next s else .next (s.setSession .idle)
  | .rdy => if inp.armIn then armedStep ev s else disarm s
  | .passbyOn => if inp.armIn then armedStep ev s else disarm s
  | .passbyOff => if inp.armIn then armedStep ev s else disarm s
  | .error => if inp.armIn then armedStep ev s else disarm s
  | .unused6 => .fault .sessionEncoding
  | .unused7 => .fault .sessionEncoding

end Sys2Proof.Machine
end

