-- ==== Sys2Proof/Machine/Wheel.lean ====
section
/-! DEFINITION. The wheel state machine with its two front ends (41_wheel R150 to R170). Each state's
row of R170 is a function from the inputs and the state to the next state and the yielded event. -/

namespace Sys2Proof.Machine

/-- `wheel <- w`. -/
def State.setWheel (w : Wheel) (s : State) : State := { s with wh := { s.wh with wheel := w } }

/-- `off_dur <- off_dur + 1` (R157). -/
def State.countOff (s : State) : State := { s with wh := { s.wh with offDur := s.wh.offDur + 1 } }

/-- `on_dur <- on_dur + 1` (R157). -/
def State.countOn (s : State) : State := { s with wh := { s.wh with onDur := s.wh.onDur + 1 } }

/-- `dcnt <- v`. -/
def State.setDcnt (v : U32) (s : State) : State := { s with wh := { s.wh with dcnt := v } }

/-- The commit to ON (R152, R163): `on_dur <- 0`, `t_on <- ms_now`, `ind_axle <- 1`, W_ON. -/
def commitOn (inp : Inputs) (s : State) : State × WheelEvent :=
  (State.setIndAxle true
    { s with wh := { s.wh with wheel := .on, onDur := 0, tOn := inp.msNow } }, .wOn)

/-- The commit to OFF that completes an axle (R154, R165): the event carries the durations and
timestamps, and `off_dur` is reset after it is formed. -/
def commitOff (inp : Inputs) (s : State) : State × WheelEvent :=
  (State.setIndAxle false
    { s with wh := { s.wh with wheel := .off, tOff := inp.msNow, offDur := 0 } },
   .wAxle s.wh.onDur s.wh.offDur s.wh.tOn inp.msNow)

/-- ON to ON_ERROR (R155, R164): `ind_error <- 1`, W_ERR; `off_dur` is kept. -/
def commitError (s : State) : State × WheelEvent :=
  (State.setIndError true (s.setWheel .onError), .wErr s.wh.offDur)

/-- ON_ERROR to OFF (R156, R166): both indicators cleared, W_REC; no counter is reset. -/
def recover (s : State) : State × WheelEvent :=
  (State.clearIndicators (s.setWheel .off), .wRec)

/-- `ms_sum > ms_len - thr_on`, over the integers (R152). -/
def onCondition (s : State) : Bool :=
  decide ((s.ms.len.toNat : Int) - (s.cfg.thrOn.toNat : Int) < (s.ms.sum.toNat : Int))

/-- `ms_sum < thr_off` (R154). -/
def offCondition (s : State) : Bool := decide (s.ms.sum.toNat < s.cfg.thrOff.toNat)

/-- `on_dur > thr_err_ticks` (R155). -/
def errorCondition (s : State) : Bool := decide (thrErrTicks s < s.wh.onDur.toNat)

/-- MOVSUM, OFF (R152, R153). -/
def movsumOff (inp : Inputs) (s : State) : State × WheelEvent :=
  let s := s.countOff
  if onCondition s then commitOn inp s
  else if stopTicks s.par < s.wh.offDur.toNat then (s, .wStop)
  else (s, .none)

/-- MOVSUM, ON (R154, R155): OFF is checked first and wins. -/
def movsumOn (inp : Inputs) (s : State) : State × WheelEvent :=
  let s := s.countOn
  if offCondition s then commitOff inp s
  else if errorCondition s then commitError s
  else (s, .none)

/-- MOVSUM, ON_ERROR (R156). -/
def movsumOnError (s : State) : State × WheelEvent :=
  if s.ms.sum = 0 then recover s else (s, .none)

/-- `WheelMovsum` (R151). -/
def wheelMovsum (inp : Inputs) (s : State) : Result (State × WheelEvent) :=
  andThen (msRun inp.cellIn s) fun s =>
    match s.wh.wheel with
    | .off => .next (movsumOff inp s)
    | .on => .next (movsumOn inp s)
    | .onError => .next (movsumOnError s)
    | .preOn => .fault .wheelEncoding
    | .preOff => .fault .wheelEncoding
    | .unused5 => .fault .wheelEncoding
    | .unused6 => .fault .wheelEncoding
    | .unused7 => .fault .wheelEncoding

/-- A rising edge of the cell input (R161). -/
def rising (inp : Inputs) (s : State) : Bool := inp.cellIn && !s.wh.prevIn

/-- A falling edge of the cell input (R161). -/
def falling (inp : Inputs) (s : State) : Bool := !inp.cellIn && s.wh.prevIn

/-- `prev_in <- cell_in`, and any edge cancels the stop timer (R160, R167). -/
def sampleEdge (inp : Inputs) (s : State) : State :=
  { s with wh := { s.wh with
    prevIn := inp.cellIn
    stopArmed := if rising inp s || falling inp s then false else s.wh.stopArmed } }

/-- `dcnt <- DEB_TICKS`. -/
def State.startDebounce (s : State) : State := s.setDcnt (BitVec.ofNat 32 (debTicks s.par))

/-- DEBOUNCE, OFF (R162, R167). -/
def debounceOff (rise : Bool) (s : State) : State × WheelEvent :=
  let s := s.countOff
  if rise then ((s.setWheel .preOn).startDebounce, .none)
  else if s.wh.stopArmed then
    let s := { s with wh := { s.wh with stopCnt := s.wh.stopCnt + 1 } }
    if stopTicks s.par < s.wh.stopCnt.toNat then
      ({ s with wh := { s.wh with stopArmed := false } }, .wStop)
    else (s, .none)
  else (s, .none)

/-- DEBOUNCE, PRE_ON (R163). -/
def debouncePreOn (inp : Inputs) (fall : Bool) (s : State) : State × WheelEvent :=
  let s := s.countOff
  if fall then ((s.setWheel .off).setDcnt 0, .none)
  else
    let s := s.setDcnt (s.wh.dcnt - 1)
    if s.wh.dcnt = 0 then commitOn inp s else (s, .none)

/-- DEBOUNCE, ON (R164): the falling edge is checked before the error condition. -/
def debounceOn (fall : Bool) (s : State) : State × WheelEvent :=
  let s := s.countOn
  if fall then ((s.setWheel .preOff).startDebounce, .none)
  else if errorCondition s then commitError s
  else (s, .none)

/-- The stop timer armed from 0 (R165, R167). -/
def State.armStop (s : State) : State :=
  { s with wh := { s.wh with stopArmed := true, stopCnt := 0 } }

/-- DEBOUNCE, PRE_OFF (R165). -/
def debouncePreOff (inp : Inputs) (rise : Bool) (s : State) : State × WheelEvent :=
  let s := s.countOn
  if rise then ((s.setWheel .on).setDcnt 0, .none)
  else
    let s := s.setDcnt (s.wh.dcnt - 1)
    if s.wh.dcnt = 0 then ((commitOff inp s).1.armStop, (commitOff inp s).2) else (s, .none)

/-- DEBOUNCE, ON_ERROR (R166): low for a full debounce period recovers. -/
def debounceOnError (rise fall : Bool) (s : State) : State × WheelEvent :=
  if fall then (s.startDebounce, .none)
  else if rise then (s.setDcnt 0, .none)
  else if 0 < s.wh.dcnt.toNat then
    let s := s.setDcnt (s.wh.dcnt - 1)
    if s.wh.dcnt = 0 then recover s else (s, .none)
  else (s, .none)

/-- `WheelDebounce` (R160). -/
def wheelDebounce (inp : Inputs) (s : State) : Result (State × WheelEvent) :=
  let rise := rising inp s
  let fall := falling inp s
  let s := sampleEdge inp s
  match s.wh.wheel with
  | .off => .next (debounceOff rise s)
  | .preOn => .next (debouncePreOn inp fall s)
  | .on => .next (debounceOn fall s)
  | .preOff => .next (debouncePreOff inp rise s)
  | .onError => .next (debounceOnError rise fall s)
  | .unused5 => .fault .wheelEncoding
  | .unused6 => .fault .wheelEncoding
  | .unused7 => .fault .wheelEncoding

/-- The wheel phase (R150, R291): it runs exactly when the session is armed at the start of the
step, with the front end of the build. -/
def wheelPhase (inp : Inputs) (s : State) : Result (State × WheelEvent) :=
  if s.ss.sess.armed then
    match s.par.frontend with
    | .movsum => wheelMovsum inp s
    | .debounce => wheelDebounce inp s
  else .next (s, .none)

end Sys2Proof.Machine
end

