-- ==== Sys2Proof/Machine/Tick.lean ====
section
/-! DEFINITION. One tick of the block (46_tick_step R290 to R299): the command phase, the transmit
phase and the composition of the four phases. -/

namespace Sys2Proof.Machine

/-- The command phase (R293): an offered byte is decoded and run; its meaning looks at the session
state (R260), which the wheel phase has not changed. -/
def commandPhase (inp : Inputs) (s : State) : Result State :=
  if inp.rxValid then exec (decodeCommand inp.rxByte) s else .next s

/-- One byte sent (R298): `tx_pos` advances, and after the last byte the message is gone. -/
def State.sendByte (s : State) : State :=
  { s with
    out := { s.out with tx := some (s.tx.buf.read s.tx.pos.toNat) }
    tx := if s.tx.pos + 1 = s.tx.len then { s.tx with len := 0, pos := 0 }
          else { s.tx with pos := s.tx.pos + 1 } }

/-- Whether the transmit phase sends (R298), by `sess` as the session phase left it. -/
def sends (inp : Inputs) (s : State) : Bool :=
  s.ss.sess != .sleep && s.tx.len != 0 && inp.txReady

/-- The transmit phase (R298). -/
def transmitPhase (inp : Inputs) (s : State) : Result State :=
  if sends inp s then
    if s.tx.pos.toNat < Config.txBufMax then .next s.sendByte else .fault .bufferIndex
  else .next s

/-- `Step` (R290) on the inputs `inp`: wheel, command, session, transmit. -/
def tickWith (inp : Inputs) (s : State) : Result State :=
  andThen (wheelPhase inp s) fun (t, ev) =>
    andThen (commandPhase inp t) fun t =>
      andThen (sessionPhase inp ev t) fun t =>
        transmitPhase inp t

/-- One tick: the inputs are sampled once, then `Step` runs on them. -/
def tick (s : State) : Result State := tickWith s.inputs s.beginStep

/-- The initial line values of R114 for the step of index `i`: cell, arm and sleep low, transmitter
ready, `ms = floor(i * 1000 / TICK_HZ)`, no byte offered. -/
def defaultInputs (p : Params) (i : Nat) : Inputs :=
  { cellIn := false, armIn := false, sleepIn := false
    msNow := BitVec.ofNat 32 (i * 1000 / p.tickHz)
    rxValid := false, rxByte := 0, txReady := true }

/-- The state with `b` offered on the receive port in the next step: added to the sample scheduled
for that step, or to the initial line values of R114 when none is. Log entry 17. -/
def State.offerByte (b : Byte) (s : State) : State :=
  match s.host.stim with
  | i :: t => { s with host := { s.host with stim := { i with rxValid := true, rxByte := b } :: t } }
  | [] => { s with host := { s.host with
      stim := [{ defaultInputs s.par s.host.ticks with rxValid := true, rxByte := b }] } }

end Sys2Proof.Machine
end

