-- ==== Sys2Proof/Machine/Step.lean ====
section
/-! DEFINITION. The machine's step, one tick of the block (46_tick_step R290), and where a command
byte waits to be fetched: on the receive port of the next step. -/

namespace Sys2Proof.Machine

/-- One step of the machine: one tick on the inputs the host has scheduled (R290). -/
def step (s : State) : Host.Outcome State Fault Refusal := tick s

/-- The command byte `w` offered on the receive port of the next step; the bits above 7 belong to no
command (30_encoding R107). Log entries 8, 17. -/
def State.withFetchWord (s : State) (_nbits w : Nat) : State := s.offerByte (BitVec.ofNat 8 w)

end Sys2Proof.Machine
end

