-- ==== Sys2Proof/Machine/FrameDecoder.lean ====
section
/-! DEFINITION. The frame decoder (43_frame_codec R226 to R230): a separate component with its own
registers, which no phase of the step touches (46_tick_step R302). `observedStep` is the observer of
R302: a step, with the byte it sends fed to the decoder. Log entry 11. -/

namespace Sys2Proof.Machine

/-- `Put(b)` (R227): an overflow drops the frame. -/
def decPut (b : Byte) (s : State) : State :=
  if s.dec.len = BitVec.ofNat 5 Config.decMax then
    { s with dec := { s.dec with st := .hunt, len := 0 } }
  else
    { s with dec := { s.dec with buf := s.dec.buf.write s.dec.len.toNat b, len := s.dec.len + 1 } }

/-- `dec_st <- v`. -/
def State.setDecoder (v : DecoderMode) (s : State) : State := { s with dec := { s.dec with st := v } }

/-- The bytes `dec_buf[0 .. dec_len-1]`. -/
def State.received (s : State) : List Byte := s.dec.buf.readAll 0 s.dec.len.toNat

/-- `DecStep(b)` (R227): the next state, and `some q` when a frame with payload `q` completes. A
`dec_len` above `DEC_MAX` would index outside `dec_buf`. -/
def decStep (b : Byte) (s : State) : Result (State × Option (List Byte)) :=
  if Config.decMax < s.dec.len.toNat then .fault .bufferIndex
  else
    match s.dec.st with
    | .hunt =>
      if b = Config.frameStart then
        .next ({ s with dec := { s.dec with st := .body, len := 0 } }, none)
      else .next (s, none)
    | .esc => .next (decPut b (s.setDecoder .body), none)
    | .body =>
      if b = Config.frameEsc then .next (s.setDecoder .esc, none)
      else if b = Config.frameStart then .next ({ s with dec := { s.dec with len := 0 } }, none)
      else if b = Config.frameStop then .next (s.setDecoder .hunt, some s.received)
      else .next (decPut b s, none)
    | .unused3 => .fault .decoderEncoding

/-- The bytes of `l` fed in order, with the frames they complete. -/
def decFeed (l : List Byte) (s : State) : Result (State × List (List Byte)) :=
  match l with
  | [] => .next (s, [])
  | b :: t =>
    andThen (decStep b s) fun (s, q) =>
      andThen (decFeed t s) fun (s, qs) => .next (s, q.toList ++ qs)

/-- A step of the block whose sent byte, if any, goes to the decoder (R302). -/
def observedStep (s : State) : Result (State × Option (List Byte)) :=
  andThen (step s) fun t =>
    match t.out.tx with
    | some b => decStep b t
    | none => .next (t, none)

end Sys2Proof.Machine
end

