-- ==== Sys2Proof/Machine/Stimulus.lean ====
section
/-! DEFINITION. The programs of the block (30_encoding R112 to R114): the command syntax,
pseudo-instructions, and stimulus lines run against the step. Log entries 17, 21, 23. -/

namespace Sys2Proof.Machine

/-- The byte of a command in the syntax of R112; an operand outside its constraint is a syntax
error, and a message is no command. -/
def assemble (i : Instr) : Option Byte :=
  match encode i with
  | [b] => if i.wellFormed then some b else none
  | _ => none

/-- An operand as a byte, if it fits in one. -/
def operandByte (n : Nat) : Option Byte := if n < 256 then some (BitVec.ofNat 8 n) else none

/-- `log2(n)` of a legal SETLEN operand (R112). -/
def exponentOf (n : Nat) : Option Byte :=
  if n = 2 then some 1
  else if n = 4 then some 2
  else if n = 8 then some 3
  else if n = 16 then some 4
  else if n = 32 then some 5
  else none

/-- The command a name and its operand stand for (R112). Log entry 21. -/
def commandNamed (name : String) (operand : Option Nat) : Option Instr :=
  match name, operand with
  | "ECHO", some c => (operandByte c).map .echo
  | "SETERR", some v => (operandByte v).map .setErr
  | "SETOFF", some v => (operandByte v).map .setOff
  | "SETON", some v => (operandByte v).map .setOn
  | "SETLEN", some n => (exponentOf n).map .setLen
  | "GETLEN", none => some .getLen
  | "GETON", none => some .getOn
  | "GETOFF", none => some .getOff
  | "GETERR", none => some .getErr
  | ".byte", some b => (operandByte b).map decodeCommand
  | _, _ => none

/-- The assembler of R112: no byte for a syntax error. -/
def assembleNamed (name : String) (operand : Option Nat) : Option Byte :=
  (commandNamed name operand).bind assemble

/-- `PING` (R113). -/
def ping : List Instr := [.echo 0xF0]

/-- The expansion of `CONFIG n, on, off, s` with `n = 2^e` (R113): both thresholds are cleared first.
It expands any operands, and a line is six bytes only where each command has one: `assembleConfig`.
DESIGN CHOICE (log entry 23, unsafe): with `s > 3`, or a threshold above 19, the last commands are not
well-formed and stand for no byte, as R112 says, not for a setup error, as R113 says. -/
def configSequence (e on off sec : Byte) : List Instr :=
  [.setOn 0, .setOff 0, .setLen e, .setOn on, .setOff off, .setErr sec]

/-- The bytes of `CONFIG n, on, off, s` (R113), or none if the line is a syntax error of R112. An
operand of R112 that only the configuration makes illegal assembles, and its reply is a setup error.
DESIGN CHOICE (log entry 23). -/
def assembleConfig (n on off sec : Nat) : Option (List Byte) :=
  [("SETON", 0), ("SETOFF", 0), ("SETLEN", n), ("SETON", on), ("SETOFF", off), ("SETERR", sec)].mapM
    fun (name, operand) => assembleNamed name (some operand)

/-- One `TICK` line (R114); a field left out is `none`. -/
structure Line where
  cell : Option Bool := none
  arm : Option Bool := none
  sleep : Option Bool := none
  rx : Option Byte := none
  txr : Option Bool := none
  ms : Option U32 := none
deriving DecidableEq, Repr

/-- `REPEAT k TICK ...` (R114). -/
def repeatLine (k : Nat) (l : Line) : List Line := List.replicate k l

/-- The inputs of line `l` at step index `i` (R114): an unwritten field keeps the previous line's
value, and `offered` is the byte on the receive port. DESIGN CHOICE (log entry 17, unsafe): an
unwritten `ms` is the default of its own step even after a line that wrote one; R114 gives both the
persistence of a field and this default, and leaves open which one holds there. -/
def Line.inputs (p : Params) (i : Nat) (prev : Inputs) (offered : Option Byte) (l : Line) : Inputs :=
  { cellIn := l.cell.getD prev.cellIn
    armIn := l.arm.getD prev.armIn
    sleepIn := l.sleep.getD prev.sleepIn
    msNow := l.ms.getD (defaultInputs p i).msNow
    rxValid := offered.isSome
    rxByte := offered.getD prev.rxByte
    txReady := l.txr.getD prev.txReady }

/-- One line: `held` is a byte an earlier line offered and no step acknowledged (R114). It answers
the next state, the inputs used, and the byte still offered. -/
def runLine (prev : Inputs) (held : Option Byte) (l : Line) (s : State) :
    Result (State × Inputs × Option Byte) :=
  if held.isSome && l.rx.isSome then .refused .stimulusProgram
  else
    let offered := held.or l.rx
    let inp := l.inputs s.par s.host.ticks prev offered
    andThen (step { s with host := { s.host with stim := [inp] } }) fun t =>
      .next (t, inp, if t.out.rxAck then none else offered)

/-- The lines of a program in order, collecting the bytes sent. -/
def runLines (prev : Inputs) (held : Option Byte) (ls : List Line) (s : State) :
    Result (State × List Byte) :=
  match ls with
  | [] => .next (s, [])
  | l :: t =>
    andThen (runLine prev held l s) fun (s, inp, held) =>
      andThen (runLines inp held t s) fun (s', sent) => .next (s', s.out.tx.toList ++ sent)

/-- A program from reset with the parameters `p` (R114). -/
def runProgram (p : Params) (ls : List Line) : Result (State × List Byte) :=
  runLines (defaultInputs p 0) none ls (State.resetWith p)

end Sys2Proof.Machine
end

