-- ==== Sys2Proof/Safety.lean ====
section
/-! DEFINITION. The terms of the claims: the invariants of 10_state R36 and R50, the state a command
leaves behind, and runs of one operation over a list. -/

namespace Sys2Proof.Machine

/-- The legal values of `sum_len` (R34): 2, 4, 8, 16, 32. -/
def legalWindow (n : Byte) : Bool := n == 2 || n == 4 || n == 8 || n == 16 || n == 32

/-- The constraints on a build's parameters (R7, R9, R12). The debounce period must also fit the
32-bit `dcnt` (R40, log entry 18). -/
abbrev ParamsOk (p : Params) : Prop :=
  0 < p.tickHz ∧ 3 ≤ p.debounceMs ∧ p.debounceMs ≤ 1000 ∧
  1 ≤ debTicks p ∧ debTicks p < 2 ^ 32 ∧
  legalWindow p.defSumLen = true ∧
  thresholdLegal p.defThrOn p.defSumLen = true ∧ thresholdLegal p.defThrOff p.defSumLen = true

/-- The configuration invariant (R34, R36, R50(i)). -/
abbrev ConfigInv (s : State) : Prop :=
  legalWindow s.cfg.sumLen = true ∧
  thresholdLegal s.cfg.thrOn s.cfg.sumLen = true ∧ thresholdLegal s.cfg.thrOff s.cfg.sumLen = true

/-- No unused encoding (93 I7), and no debounce state of the wheel under MOVSUM (R39). -/
abbrev EncodingInv (s : State) : Prop :=
  s.wh.wheel.bits.toNat ≤ 4 ∧ s.ss.sess.bits.toNat ≤ 5 ∧
  (s.par.frontend = .movsum → s.wh.wheel = .off ∨ s.wh.wheel = .on ∨ s.wh.wheel = .onError)

/-- How `sess`, `wheel` and `pb_started` go together (R50(b) to (e), R199). -/
abbrev SessionInv (s : State) : Prop :=
  (s.ss.sess = .passbyOn → s.wh.wheel = .on ∨ s.wh.wheel = .preOff) ∧
  (s.ss.sess = .error → s.wh.wheel = .onError) ∧
  (s.ss.sess = .rdy ∨ s.ss.sess = .passbyOff → s.wh.wheel = .off ∨ s.wh.wheel = .preOn) ∧
  (s.ss.pbStarted = true →
    s.ss.sess = .passbyOn ∨ s.ss.sess = .passbyOff ∨ s.ss.sess = .error) ∧
  (s.ss.sess = .passbyOff → s.ss.pbStarted = true)

/-- The debounce registers: under MOVSUM they keep their reset values (R40); under DEBOUNCE
`prev_in` agrees with the wheel (R50(f)) and the timer runs exactly where it is counted down. -/
abbrev DebounceInv (s : State) : Prop :=
  (s.par.frontend = .movsum →
    s.wh.prevIn = false ∧ s.wh.dcnt = 0 ∧ s.wh.stopArmed = false ∧ s.wh.stopCnt = 0) ∧
  (s.par.frontend = .debounce → s.ss.sess.armed = true →
    (s.wh.wheel = .off → s.wh.prevIn = false) ∧
    (s.wh.wheel = .on → s.wh.prevIn = true ∧ s.wh.dcnt = 0) ∧
    (s.wh.wheel = .preOn → s.wh.prevIn = true ∧ s.wh.dcnt ≠ 0) ∧
    (s.wh.wheel = .preOff → s.wh.prevIn = false ∧ s.wh.dcnt ≠ 0) ∧
    (s.wh.wheel = .onError → s.wh.dcnt ≠ 0 → s.wh.prevIn = false))

/-- The staging registers (R42, R50(g)). -/
abbrev StagingInv (s : State) : Prop :=
  s.tx.len.toNat ≤ Config.txBufMax ∧ (s.tx.len = 0 ∨ s.tx.pos.toNat < s.tx.len.toNat)

/-- The filter while armed (R50(h), R50(i), R135). -/
abbrev FilterInv (s : State) : Prop :=
  s.ss.sess.armed = true →
    s.ms.len.toNat = s.cfg.sumLen.toNat ∧ s.ms.idx.toNat < s.ms.len.toNat ∧
    s.ms.sum.toNat = bufferSum s.ms.buf s.ms.len.toNat

/-- The indicators (R46, R326): 0 unless armed, and given by the wheel while armed. -/
abbrev IndicatorInv (s : State) : Prop :=
  s.ind.axle = (s.ss.sess.armed &&
    (s.wh.wheel == .on || s.wh.wheel == .preOff || s.wh.wheel == .onError)) ∧
  s.ind.error = (s.ss.sess.armed && s.wh.wheel == .onError)

/-- The decoder's registers (R43, 93 I7). -/
abbrev DecoderInv (s : State) : Prop :=
  s.dec.st ≠ .unused3 ∧ s.dec.len.toNat ≤ Config.decMax ∧ s.dec.buf.wf Config.decMax = true

/-- The three memories are in canonical form. -/
abbrev MemoryInv (s : State) : Prop :=
  s.ms.buf.wf Config.maxWindow = true ∧ s.tx.buf.wf Config.txBufMax = true ∧
  s.dec.buf.wf Config.decMax = true

/-- The invariants of the block together (R50). -/
abbrev Inv (s : State) : Prop :=
  ParamsOk s.par ∧ ConfigInv s ∧ EncodingInv s ∧ SessionInv s ∧ DebounceInv s ∧ StagingInv s ∧
  FilterInv s ∧ IndicatorInv s ∧ DecoderInv s ∧ MemoryInv s

/-- The inbound command bytes among the instructions (R101). -/
def isCommand : Instr → Bool
  | .echo _ => true
  | .setErr _ => true
  | .setOff _ => true
  | .setOn _ => true
  | .setLen _ => true
  | .getLen => true
  | .getOn => true
  | .getOff => true
  | .getErr => true
  | .invalid _ => true
  | .msgAxle _ _ => false
  | .msgAxleErr _ => false
  | .msgSetupOk _ => false
  | .msgSetupErr _ => false
  | .msgRepOn _ => false
  | .msgRepOff _ => false
  | .msgRepErr _ => false
  | .msgRepLen _ => false
  | .msgStart _ _ => false
  | .msgStop _ _ => false
  | .msgEcho _ => false

/-- The reply column of R277, on the configuration `c`; a message is its own payload. -/
def replyOf (i : Instr) (c : Cfg) : List Byte :=
  match i with
  | .echo b => [0xF1, b]
  | .setErr v => [0x03, 61 + v]
  | .setOff v => if v.toNat < c.sumLen.toNat / 2 then [0x03, 40 + v] else [0x04, 40 + v]
  | .setOn v => if v.toNat < c.sumLen.toNat / 2 then [0x03, 20 + v] else [0x04, 20 + v]
  | .setLen e =>
    if c.thrOn.toNat < 2 ^ e.toNat / 2 ∧ c.thrOff.toNat < 2 ^ e.toNat / 2 then [0x03, 10 + e]
    else [0x04, 10 + e]
  | .getLen => [0x08, c.sumLen]
  | .getOn => [0x05, c.thrOn]
  | .getOff => [0x06, c.thrOff]
  | .getErr => [0x07, c.thrErrS]
  | .invalid b => [0x04, b]
  | i => encode i

/-- The state in which the frame of the payload `p` is pending and nothing else has changed. -/
def State.pending (p : List Byte) (s : State) : State :=
  { s with tx := { buf := s.tx.buf.writeAll 0 (frameEncode p)
                   len := BitVec.ofNat 5 (frameEncode p).length, pos := 0 } }

/-- The state an executed command leaves (R260, R276): the byte consumed, the configuration `c`, the
reply `p` pending. -/
def State.answered (c : Cfg) (p : List Byte) (s : State) : State :=
  State.pending p { s with cfg := c, out := { s.out with rxAck := true } }

/-- Samples pushed into the filter one after another. -/
def msFeed (l : List Bool) (s : State) : Result State :=
  match l with
  | [] => .next s
  | x :: t => andThen (msRun x s) (msFeed t)

/-- Instructions run one after another. -/
def execAll (l : List Instr) (s : State) : Result State :=
  match l with
  | [] => .next s
  | i :: t => andThen (exec i s) (execAll t)

/-- `n` transmit phases in a row with the transmitter ready, collecting the bytes sent. -/
def drain (inp : Inputs) (n : Nat) (s : State) : Result (State × List Byte) :=
  match n with
  | 0 => .next (s, [])
  | n + 1 =>
    andThen (transmitPhase inp { s with out := { s.out with tx := none } }) fun t =>
      andThen (drain inp n t) fun (u, sent) => .next (u, t.out.tx.toList ++ sent)

end Sys2Proof.Machine
end

