-- ==== Sys2Proof/Certificates/Slice0/Obligations.lean ====
section
/-! DEFINITION. The statements for the provers: each says what its docstring says, of the rules
OBLIGATIONS.json cites for it. -/

open Sys2Proof Sys2Proof.Machine

/-- For every choice of build parameters: the configuration registers are the DEF parameters, ms_len
is DEF_SUM_LEN, wheel is OFF, sess is IDLE, dec_st is HUNT, every other register is 0, tx_valid
and rx_ack are 0 and both indicators are 0. Nothing is said of the three buffers and of
ind_status, which R47 leaves unspecified. -/
def Obligations.PowerOnRegisterValues : Prop :=
  ∀ p : Params, ∀ s : State, s = State.resetWith p →
    s.cfg.sumLen = p.defSumLen ∧ s.cfg.thrOn = p.defThrOn ∧ s.cfg.thrOff = p.defThrOff ∧
    s.cfg.thrErrS = p.defThrErrS ∧
    s.ms.len = p.defSumLen.setWidth 6 ∧ s.ms.sum = 0 ∧ s.ms.idx = 0 ∧
    s.wh.wheel = .off ∧ s.wh.onDur = 0 ∧ s.wh.offDur = 0 ∧ s.wh.tOn = 0 ∧ s.wh.tOff = 0 ∧
    s.wh.prevIn = false ∧ s.wh.dcnt = 0 ∧ s.wh.stopArmed = false ∧ s.wh.stopCnt = 0 ∧
    s.ss.sess = .idle ∧ s.ss.axleCount = 0 ∧ s.ss.passbyCount = 0 ∧ s.ss.errorCount = 0 ∧
    s.ss.pbStarted = false ∧ s.ss.passbyT0 = 0 ∧ s.ss.lastAxleTs = 0 ∧
    s.tx.len = 0 ∧ s.tx.pos = 0 ∧ s.dec.st = .hunt ∧ s.dec.len = 0 ∧
    s.out.tx = none ∧ s.out.rxAck = false ∧ s.ind.axle = false ∧ s.ind.error = false

/-- For every legal choice of build parameters the reset state satisfies the conjunction of the
invariants of R36 and R50, the encodings of 93 I7, the indicator rule of R46 and the canonical
form of the memories. The buffers' contents at reset are the model's choice (log entry 3). -/
def Obligations.PowerOnMeetsBlockInvariant : Prop :=
  ∀ p : Params, ParamsOk p → Inv (State.resetWith p)

/-- From every state that satisfies the invariant (not only reachable ones), for all inputs and both
front ends, a step that answers a next state answers one that satisfies it: the configuration
stays legal, sess, wheel and pb_started stay coupled as in R50(b) to (e), the edge register agrees
with the wheel (R50(f)), the staging indices stay in range (R50(g)), the running sum stays the sum
of the buffer with the index inside the window (R50(h), (i)), the indicators follow the wheel
(R46), and the three memories keep their canonical form. -/
def Obligations.StepKeepsBlockInvariant : Prop :=
  ∀ s t : State, Inv s → step s = .next t → Inv t

/-- From every state that satisfies the invariant, for all inputs and both front ends, the step
answers a next state: there are no fatal errors that halt the block, no buffer index leaves its
memory and the setup precondition always holds. -/
def Obligations.NoStopUnderBlockInvariant : Prop :=
  ∀ s : State, Inv s → ∃ t, step s = .next t

/-- From every state, the step is the wheel phase, then the command phase, then the session phase on
the wheel's event, then the transmit phase, each on the inputs sampled at the start of the step.
It starts from the state with rx_ack and tx_valid 0 and every register as it was (that the inputs
come from the model's host side is the model's choice, log entry 1). Without an offered byte the
command phase does nothing, so the step is the other three. When a byte is offered and decodes to
the instruction i, the command phase is exec of i; in IDLE the wheel phase does nothing either, so
the step is exec of i on the start state, then the session phase without an event, then the
transmit phase. -/
def Obligations.StepRunsOfferedInstruction : Prop :=
  ∀ s : State,
    s.beginStep.out = { rxAck := false, tx := none } ∧
    { s.beginStep with out := s.out, host := s.host } = s ∧
    (step s = andThen (wheelPhase s.inputs s.beginStep) fun r =>
      andThen (commandPhase s.inputs r.1) fun u =>
        andThen (sessionPhase s.inputs r.2 u) fun v => transmitPhase s.inputs v) ∧
    (s.inputs.rxValid = false →
      step s = andThen (wheelPhase s.inputs s.beginStep) fun r =>
        andThen (sessionPhase s.inputs r.2 r.1) fun v => transmitPhase s.inputs v) ∧
    ∀ i : Instr, s.inputs.rxValid = true → decode [s.inputs.rxByte] = .instr i →
      (step s = andThen (wheelPhase s.inputs s.beginStep) fun r =>
        andThen (exec i r.1) fun u =>
          andThen (sessionPhase s.inputs r.2 u) fun v => transmitPhase s.inputs v) ∧
      (s.ss.sess = .idle →
        step s = andThen (exec i s.beginStep) fun u =>
          andThen (sessionPhase s.inputs .none u) fun v => transmitPhase s.inputs v)

/-- After withFetchWord the next step's inputs have rx_valid = 1 and rx_byte the word's low byte, and
only the scheduled inputs differ from before (where a byte waits is the model's choice, log entry
17). -/
def Obligations.FetchWordIsOffered : Prop :=
  ∀ (s : State) (nbits w : Nat),
    (s.withFetchWord nbits w).inputs.rxValid = true ∧
    (s.withFetchWord nbits w).inputs.rxByte = BitVec.ofNat 8 w ∧
    { s.withFetchWord nbits w with host := s.host } = s ∧
    (s.withFetchWord nbits w).host.ticks = s.host.ticks

/-- A few bytes written out from the class table of R101 and payloads written out from the header
table of R110 decode to the instructions they stand for. That the axle payload stands for the
least ticks that scale to its fields, 8 of 8 to 11, is the model's choice (log entry 9), stated by
no rule. -/
def Obligations.SampleBytesDecode : Prop :=
  decode [0xF5] = .instr (.echo 0xF5) ∧ decode [0x3F] = .instr (.setErr 2) ∧
  decode [0x29] = .instr (.setOff 1) ∧ decode [0x15] = .instr (.setOn 1) ∧
  decode [0x0D] = .instr (.setLen 3) ∧ decode [0x01] = .instr .getLen ∧
  decode [0x02] = .instr .getOn ∧ decode [0x03] = .instr .getOff ∧ decode [0x04] = .instr .getErr ∧
  decode [0x10] = .instr (.invalid 16) ∧ decode [0x41] = .instr (.invalid 65) ∧
  decode [0x01, 0x02, 0x02, 0x00, 0x00, 0x00] = .instr (.msgAxle 8 8) ∧
  decode [0x09, 0x01, 0x00, 0x1C, 0x00, 0x00, 0x00] = .instr (.msgStart 1 28) ∧
  decode [0x0A, 0x01, 0x00, 0x02, 0x00] = .instr (.msgStop 1 2)

/-- Each of the 256 byte values decodes to the class whose range of R101 holds it, with the operand of
that row (for SETLEN e = b - 10, whose window is 2^e). -/
def Obligations.CommandClassRanges : Prop :=
  ∀ b : Byte,
    (240 ≤ b.toNat → decodeCommand b = .echo b) ∧
    (61 ≤ b.toNat ∧ b.toNat ≤ 64 → decodeCommand b = .setErr (b - 61)) ∧
    (40 ≤ b.toNat ∧ b.toNat ≤ 59 → decodeCommand b = .setOff (b - 40)) ∧
    (20 ≤ b.toNat ∧ b.toNat ≤ 39 → decodeCommand b = .setOn (b - 20)) ∧
    (11 ≤ b.toNat ∧ b.toNat ≤ 15 → decodeCommand b = .setLen (b - 10) ∧
      (windowOfExponent (b - 10)).toNat = 2 ^ (b.toNat - 10)) ∧
    (b.toNat = 1 → decodeCommand b = .getLen) ∧ (b.toNat = 2 → decodeCommand b = .getOn) ∧
    (b.toNat = 3 → decodeCommand b = .getOff) ∧ (b.toNat = 4 → decodeCommand b = .getErr) ∧
    (b.toNat = 0 ∨ (5 ≤ b.toNat ∧ b.toNat ≤ 10) ∨ (16 ≤ b.toNat ∧ b.toNat ≤ 19) ∨ b.toNat = 60 ∨
      (65 ≤ b.toNat ∧ b.toNat ≤ 239) → decodeCommand b = .invalid b)

/-- For every well-formed instruction, decoding its bytes gives the instruction the wire keeps: the
instruction itself, except that the two axle messages keep of their durations what the scaling by
4 and the 8-bit field keep. An axle message whose durations are multiples of 4 in the fields'
range comes back whole. That an axle payload reads back as the least ticks of its fields is the
model's choice (log entry 9), stated by no rule. -/
def Obligations.DecodeOfEncode : Prop :=
  ∀ i : Instr, i.wellFormed = true →
    decode (encode i) = .instr (onWire i) ∧
    ((∀ on off, i ≠ .msgAxle on off) → (∀ off, i ≠ .msgAxleErr off) → onWire i = i) ∧
    (∀ on off, i = .msgAxle on off → on.toNat < 1024 → on.toNat % 4 = 0 → off.toNat % 4 = 0 →
      onWire i = i) ∧
    (∀ off, i = .msgAxleErr off → off.toNat % 4 = 0 → onWire i = i)

/-- If a byte list decodes to an instruction, that instruction is well-formed and its encoding is the
byte list: every accepted byte list has one meaning. -/
def Obligations.EncodeOfDecode : Prop :=
  ∀ (l : List Byte) (i : Instr), decode l = .instr i → i.wellFormed = true ∧ encode i = l

/-- In IDLE, ECHO c answers the state in which the byte is consumed and the frame of [F1, c] is
pending, nothing else changed. -/
def Obligations.EchoCommandReplies : Prop :=
  ∀ (s : State) (c : Byte), s.ss.sess = .idle → 240 ≤ c.toNat →
    exec (.echo c) s = .next (s.answered s.cfg [0xF1, c])

/-- In IDLE, SETERR v (byte 61 + v, v up to 3) writes thr_err_s with v and stages setup OK [03, 61 +
v]; every other register but the staging registers is unchanged. -/
def Obligations.SetErrCommandWrites : Prop :=
  ∀ (s : State) (v : Byte), s.ss.sess = .idle → v.toNat ≤ 3 →
    exec (.setErr v) s = .next (s.answered { s.cfg with thrErrS := v } [0x03, 61 + v])

/-- In IDLE, SETOFF v (byte 40 + v, v up to 19) writes thr_off and stages [03, 40 + v] if v < sum_len
div 2; otherwise it stages [04, 40 + v] and changes no register. -/
def Obligations.SetOffCommandValidates : Prop :=
  ∀ (s : State) (v : Byte), s.ss.sess = .idle → v.toNat ≤ 19 →
    exec (.setOff v) s =
      if v.toNat < s.cfg.sumLen.toNat / 2 then
        .next (s.answered { s.cfg with thrOff := v } [0x03, 40 + v])
      else .next (s.answered s.cfg [0x04, 40 + v])

/-- In IDLE, SETON v (byte 20 + v, v up to 19) writes thr_on and stages [03, 20 + v] if v < sum_len
div 2; otherwise it stages [04, 20 + v] and changes no register. -/
def Obligations.SetOnCommandValidates : Prop :=
  ∀ (s : State) (v : Byte), s.ss.sess = .idle → v.toNat ≤ 19 →
    exec (.setOn v) s =
      if v.toNat < s.cfg.sumLen.toNat / 2 then
        .next (s.answered { s.cfg with thrOn := v } [0x03, 20 + v])
      else .next (s.answered s.cfg [0x04, 20 + v])

/-- In IDLE, SETLEN with exponent e from 1 to 5 (byte 10 + e, n = 2^e) writes sum_len with n and
stages [03, 10 + e] if both thresholds are below n div 2; otherwise it stages [04, 10 + e] and
changes no register. The active window ms_len is unchanged in both cases. -/
def Obligations.SetLenCommandValidates : Prop :=
  ∀ (s : State) (e : Byte), s.ss.sess = .idle → 1 ≤ e.toNat → e.toNat ≤ 5 →
    exec (.setLen e) s =
      if s.cfg.thrOn.toNat < 2 ^ e.toNat / 2 ∧ s.cfg.thrOff.toNat < 2 ^ e.toNat / 2 then
        .next (s.answered { s.cfg with sumLen := BitVec.ofNat 8 (2 ^ e.toNat) } [0x03, 10 + e])
      else .next (s.answered s.cfg [0x04, 10 + e])

/-- In IDLE each get command consumes its byte and stages its report message with the value of its
register, and changes nothing else. -/
def Obligations.GetCommandsReport : Prop :=
  ∀ s : State, s.ss.sess = .idle →
    exec .getLen s = .next (s.answered s.cfg [0x08, s.cfg.sumLen]) ∧
    exec .getOn s = .next (s.answered s.cfg [0x05, s.cfg.thrOn]) ∧
    exec .getOff s = .next (s.answered s.cfg [0x06, s.cfg.thrOff]) ∧
    exec .getErr s = .next (s.answered s.cfg [0x07, s.cfg.thrErrS])

/-- In IDLE every byte of the INVALID class is consumed and answered with the setup error message [04,
b]; nothing else changes. -/
def Obligations.InvalidByteAnswersSetupError : Prop :=
  ∀ (s : State) (b : Byte), s.ss.sess = .idle →
    (b.toNat = 0 ∨ (5 ≤ b.toNat ∧ b.toNat ≤ 10) ∨ (16 ≤ b.toNat ∧ b.toNat ≤ 19) ∨ b.toNat = 60 ∨
      (65 ≤ b.toNat ∧ b.toNat ≤ 239)) →
    exec (.invalid b) s = .next (s.answered s.cfg [0x04, b])

/-- For every command instruction: in an armed state the byte is acknowledged and nothing else
changes; in SLEEP nothing changes and the byte is not acknowledged. -/
def Obligations.CommandsOutsideIdle : Prop :=
  ∀ (i : Instr) (s : State), isCommand i = true →
    (s.ss.sess.armed = true → exec i s = .next { s with out := { s.out with rxAck := true } }) ∧
    (s.ss.sess = .sleep → exec i s = .next s)

/-- With no byte offered nothing happens. With one offered: in IDLE it is acknowledged and executed as
the command it decodes to; in the four armed states it is acknowledged and nothing else changes;
in SLEEP nothing changes, so rx_ack stays 0. -/
def Obligations.CommandPhaseTable : Prop :=
  ∀ (inp : Inputs) (s : State), s.out.rxAck = false →
    (inp.rxValid = false → commandPhase inp s = .next s) ∧
    (inp.rxValid = true → s.ss.sess = .idle →
      commandPhase inp s = exec (decodeCommand inp.rxByte) s ∧
      ∃ t, commandPhase inp s = .next t ∧ t.out.rxAck = true) ∧
    (inp.rxValid = true → s.ss.sess = .rdy ∨ s.ss.sess = .passbyOn ∨ s.ss.sess = .passbyOff ∨
        s.ss.sess = .error →
      commandPhase inp s = .next { s with out := { s.out with rxAck := true } }) ∧
    (inp.rxValid = true → s.ss.sess = .sleep → commandPhase inp s = .next s)

/-- For every well-formed command run in IDLE to a next state: the parameters, the filter, the wheel,
the indicators, the session, the decoder, the sent byte and the scheduled inputs are unchanged;
each configuration register is unchanged except by its own set command; every staging byte at or
above the length of the reply's frame is unchanged, and so is every byte of the other two memories
(their engines are unchanged whole). -/
def Obligations.CommandFrame : Prop :=
  ∀ (i : Instr) (s t : State), isCommand i = true → i.wellFormed = true → s.ss.sess = .idle →
    exec i s = .next t →
    t.par = s.par ∧ t.ms = s.ms ∧ t.wh = s.wh ∧ t.ind = s.ind ∧ t.ss = s.ss ∧ t.dec = s.dec ∧
    t.host = s.host ∧ t.out.tx = s.out.tx ∧
    ((∀ e, i ≠ .setLen e) → t.cfg.sumLen = s.cfg.sumLen) ∧
    ((∀ v, i ≠ .setOn v) → t.cfg.thrOn = s.cfg.thrOn) ∧
    ((∀ v, i ≠ .setOff v) → t.cfg.thrOff = s.cfg.thrOff) ∧
    ((∀ v, i ≠ .setErr v) → t.cfg.thrErrS = s.cfg.thrErrS) ∧
    ∀ a, (frameEncode (replyOf i s.cfg)).length ≤ a → t.tx.buf.read a = s.tx.buf.read a

/-- For every message run to a next state: every register outside the staging registers is unchanged,
tx_pos is 0, and every staging byte at or above the length of the message's frame is unchanged. -/
def Obligations.MessageFrame : Prop :=
  ∀ (i : Instr) (s t : State), isCommand i = false → exec i s = .next t →
    { t with tx := s.tx } = s ∧ t.tx.pos = 0 ∧
    ∀ a, (frameEncode (encode i)).length ≤ a → t.tx.buf.read a = s.tx.buf.read a

/-- In every state, MSG_AXLE with on and off ticks leaves pending the frame of the 6-byte payload 01,
the low byte of floor(on/4), and the four bytes of floor(off/4) least significant first; nothing
else changes. -/
def Obligations.AxleMessagePayload : Prop :=
  ∀ (on off : U32) (s : State),
    exec (.msgAxle on off) s = .next (s.pending
      [0x01, BitVec.ofNat 8 (on.toNat / 4),
       BitVec.ofNat 8 (off.toNat / 4), BitVec.ofNat 8 (off.toNat / 4 / 2 ^ 8),
       BitVec.ofNat 8 (off.toNat / 4 / 2 ^ 16), BitVec.ofNat 8 (off.toNat / 4 / 2 ^ 24)])

/-- In every state, MSG_AXLE_ERR with off ticks leaves pending the frame of the 5-byte payload 02 and
the four bytes of floor(off/4) least significant first; nothing else changes. -/
def Obligations.AxleErrorMessagePayload : Prop :=
  ∀ (off : U32) (s : State),
    exec (.msgAxleErr off) s = .next (s.pending
      [0x02, BitVec.ofNat 8 (off.toNat / 4), BitVec.ofNat 8 (off.toNat / 4 / 2 ^ 8),
       BitVec.ofNat 8 (off.toNat / 4 / 2 ^ 16), BitVec.ofNat 8 (off.toNat / 4 / 2 ^ 24)])

/-- In every state, setup OK, setup error, the four reports and the echo reply leave pending the frame
of their header and their operand byte; nothing else changes. -/
def Obligations.TwoByteMessagePayloads : Prop :=
  ∀ (c : Byte) (s : State),
    exec (.msgSetupOk c) s = .next (s.pending [0x03, c]) ∧
    exec (.msgSetupErr c) s = .next (s.pending [0x04, c]) ∧
    exec (.msgRepOn c) s = .next (s.pending [0x05, c]) ∧
    exec (.msgRepOff c) s = .next (s.pending [0x06, c]) ∧
    exec (.msgRepErr c) s = .next (s.pending [0x07, c]) ∧
    exec (.msgRepLen c) s = .next (s.pending [0x08, c]) ∧
    exec (.msgEcho c) s = .next (s.pending [0xF1, c])

/-- In every state, MSG_START pid ts leaves pending the frame of 09, pid as two bytes and ts as four
bytes, and MSG_STOP pid n the frame of 0A, pid and n as two bytes each, least significant byte
first; nothing else changes. -/
def Obligations.StartAndStopMessagePayloads : Prop :=
  ∀ (pid n : U16) (ts : U32) (s : State),
    exec (.msgStart pid ts) s = .next (s.pending
      [0x09, BitVec.ofNat 8 pid.toNat, BitVec.ofNat 8 (pid.toNat / 2 ^ 8),
       BitVec.ofNat 8 ts.toNat, BitVec.ofNat 8 (ts.toNat / 2 ^ 8),
       BitVec.ofNat 8 (ts.toNat / 2 ^ 16), BitVec.ofNat 8 (ts.toNat / 2 ^ 24)]) ∧
    exec (.msgStop pid n) s = .next (s.pending
      [0x0A, BitVec.ofNat 8 pid.toNat, BitVec.ofNat 8 (pid.toNat / 2 ^ 8),
       BitVec.ofNat 8 n.toNat, BitVec.ofNat 8 (n.toNat / 2 ^ 8)])

/-- For every payload, the frame is the start byte, then each payload byte preceded by 7E exactly when
it is 7C, 7D or 7E and itself unchanged, then the stop byte. -/
def Obligations.FrameBytes : Prop :=
  ∀ p : List Byte,
    frameEncode p = [0x7C] ++ p.flatMap (fun x =>
      if x = 0x7C ∨ x = 0x7D ∨ x = 0x7E then [0x7E, x] else [x]) ++ [0x7D]

/-- For every payload of k bytes the frame has k + 2 bytes plus the number of its bytes in 7C, 7D, 7E,
which is at most 2k + 2; for k up to 7 that is at most 16 and Stage completes. -/
def Obligations.FrameLengthAndFit : Prop :=
  ∀ p : List Byte,
    (frameEncode p).length =
      p.length + 2 + p.countP (fun x => x == 0x7C || x == 0x7D || x == 0x7E) ∧
    (frameEncode p).length ≤ 2 * p.length + 2 ∧
    (p.length ≤ 7 → (frameEncode p).length ≤ 16 ∧ ∀ s : State, ∃ t, stage p s = .next t)

/-- The frame of a two-byte message has 4 or 5 bytes, of STOP and of the axle error 7 to 11, of AXLE 8
to 13, of START 9 to 15. In the frame of every message the header is none of 7C, 7D and 7E and
stands unescaped behind the start byte. -/
def Obligations.FrameLengthBounds : Prop :=
  ∀ (c : Byte) (pid n : U16) (on off ts : U32),
    (∀ i, i = Instr.msgSetupOk c ∨ i = .msgSetupErr c ∨ i = .msgRepOn c ∨ i = .msgRepOff c ∨
        i = .msgRepErr c ∨ i = .msgRepLen c ∨ i = .msgEcho c →
      4 ≤ (frameEncode (encode i)).length ∧ (frameEncode (encode i)).length ≤ 5) ∧
    (∀ i, i = Instr.msgStop pid n ∨ i = .msgAxleErr off →
      7 ≤ (frameEncode (encode i)).length ∧ (frameEncode (encode i)).length ≤ 11) ∧
    (8 ≤ (frameEncode (encode (.msgAxle on off))).length ∧
      (frameEncode (encode (.msgAxle on off))).length ≤ 13) ∧
    (9 ≤ (frameEncode (encode (.msgStart pid ts))).length ∧
      (frameEncode (encode (.msgStart pid ts))).length ≤ 15) ∧
    ∀ i, isCommand i = false → ∃ h t, encode i = h :: t ∧ h ≠ 0x7C ∧ h ≠ 0x7D ∧ h ≠ 0x7E ∧
      frameEncode (encode i) = 0x7C :: h :: (escaped t ++ [0x7D])

/-- For a payload of at most 7 bytes and a staging buffer in canonical form, Stage completes, whatever
tx_len and tx_pos were: the frame's bytes are read back at indices 0 on, the bytes above them are
unchanged, tx_len is the frame's length, tx_pos is 0, every other register is unchanged, and the
buffer stays canonical. -/
def Obligations.StageReplacesPending : Prop :=
  ∀ (p : List Byte) (s : State), p.length ≤ 7 → s.tx.buf.wf Config.txBufMax = true →
    ∃ t, stage p s = .next t ∧
      (∀ a (h : a < (frameEncode p).length), t.tx.buf.read a = (frameEncode p)[a]) ∧
      (∀ a, (frameEncode p).length ≤ a → t.tx.buf.read a = s.tx.buf.read a) ∧
      t.tx.len.toNat = (frameEncode p).length ∧ t.tx.pos = 0 ∧ { t with tx := s.tx } = s ∧
      t.tx.buf.wf Config.txBufMax = true

/-- When the session is not in SLEEP, a message is pending, the transmitter is ready and tx_pos is in
range, the phase sends the byte at tx_pos and advances, or clears tx_len and tx_pos after the last
byte; otherwise, in SLEEP, with nothing pending or with the transmitter not ready, nothing
changes. -/
def Obligations.TransmitPhaseSendsOneByte : Prop :=
  ∀ (inp : Inputs) (s : State),
    (s.ss.sess ≠ .sleep → s.tx.len ≠ 0 → inp.txReady = true → s.tx.pos.toNat < s.tx.len.toNat →
        s.tx.len.toNat ≤ 16 →
      transmitPhase inp s = .next { s with
        out := { s.out with tx := some (s.tx.buf.read s.tx.pos.toNat) }
        tx := if s.tx.pos.toNat + 1 = s.tx.len.toNat then { s.tx with len := 0, pos := 0 }
              else { s.tx with pos := s.tx.pos + 1 } }) ∧
    (s.ss.sess = .sleep ∨ s.tx.len = 0 ∨ inp.txReady = false → transmitPhase inp s = .next s)

/-- For every payload of at most 7 bytes staged outside SLEEP into a canonical buffer, L transmit
phases in a row with the transmitter ready, L the frame's length, send exactly the frame's bytes
in order, and leave nothing pending and no register outside the staging and output registers
changed. -/
def Obligations.StagedFrameLeavesWhole : Prop :=
  ∀ (p : List Byte) (s : State) (inp : Inputs), p.length ≤ 7 →
    s.tx.buf.wf Config.txBufMax = true → s.ss.sess ≠ .sleep → inp.txReady = true →
    ∃ t u, stage p s = .next t ∧
      drain inp (frameEncode p).length t = .next (u, frameEncode p) ∧
      u.tx.len = 0 ∧ u.tx.pos = 0 ∧ { u with tx := s.tx, out := s.out } = s

/-- For every payload of at most 16 bytes and every decoder in HUNT or BODY, feeding the frame yields
no payload for every byte but the last and the payload itself for the last, and leaves the decoder
in HUNT. -/
def Obligations.DecoderRecoversEveryPayload : Prop :=
  ∀ (p : List Byte) (s : State), p.length ≤ 16 → (s.dec.st = .hunt ∨ s.dec.st = .body) →
    s.dec.len.toNat ≤ 16 → s.dec.buf.wf Config.decMax = true →
    ∃ t u, decFeed ((frameEncode p).dropLast) s = .next (t, []) ∧
      decStep 0x7D t = .next (u, some p) ∧ (frameEncode p).getLast? = some 0x7D ∧
      u.dec.st = .hunt

/-- For dec_len up to 16: in HUNT only 7C starts a frame; in ESC any byte is put literally; in BODY 7E
escapes, 7C restarts, 7D ends the frame and yields dec_buf[0 .. dec_len-1], and any other byte is
put. A put at dec_len = 16 drops the frame; otherwise it stores the byte at dec_len and counts it. -/
def Obligations.DecoderStepTable : Prop :=
  ∀ (b : Byte) (s : State), s.dec.len.toNat ≤ 16 →
    (s.dec.st = .hunt → b = 0x7C →
      decStep b s = .next ({ s with dec := { s.dec with st := .body, len := 0 } }, none)) ∧
    (s.dec.st = .hunt → b ≠ 0x7C → decStep b s = .next (s, none)) ∧
    (s.dec.st = .esc ∨ (s.dec.st = .body ∧ b ≠ 0x7C ∧ b ≠ 0x7D ∧ b ≠ 0x7E) →
      s.dec.len.toNat < 16 →
      decStep b s = .next ({ s with dec :=
        { st := .body, buf := s.dec.buf.write s.dec.len.toNat b, len := s.dec.len + 1 } }, none)) ∧
    (s.dec.st = .esc ∨ (s.dec.st = .body ∧ b ≠ 0x7C ∧ b ≠ 0x7D ∧ b ≠ 0x7E) →
      s.dec.len.toNat = 16 →
      decStep b s = .next ({ s with dec := { s.dec with st := .hunt, len := 0 } }, none)) ∧
    (s.dec.st = .body → b = 0x7E →
      decStep b s = .next ({ s with dec := { s.dec with st := .esc } }, none)) ∧
    (s.dec.st = .body → b = 0x7C →
      decStep b s = .next ({ s with dec := { s.dec with len := 0 } }, none)) ∧
    (s.dec.st = .body → b = 0x7D →
      decStep b s = .next ({ s with dec := { s.dec with st := .hunt } },
        some ((List.range s.dec.len.toNat).map fun i => s.dec.buf.read i)))

/-- From every state whose decoder registers are in range, DecStep on any byte completes, keeps them
in range and its buffer canonical, and changes no register of the block outside the decoder. -/
def Obligations.DecoderStepKeepsDecoderSound : Prop :=
  ∀ (b : Byte) (s : State), DecoderInv s →
    ∃ t q, decStep b s = .next (t, q) ∧ DecoderInv t ∧ { t with dec := s.dec } = s

/-- For n from 1 to 32, MS_Setup completes: ms_len is n, ms_sum and ms_idx are 0, all 32 elements read
0, no register outside the filter changes, and a second setup of the same window changes nothing.
Two states that differ only in the filter give the same state, when both buffers are canonical.
For n = 0 or n > 32 it is refused. -/
def Obligations.SetupClearsFilter : Prop :=
  ∀ (n : Nat) (s : State), s.ms.buf.wf Config.maxWindow = true →
    (1 ≤ n ∧ n ≤ 32 → ∃ t, msSetup n s = .next t ∧ t.ms.len.toNat = n ∧ t.ms.sum = 0 ∧
      t.ms.idx = 0 ∧ (∀ a, t.ms.buf.read a = 0) ∧ { t with ms := s.ms } = s ∧
      msSetup n t = .next t ∧
      ∀ m : MovSum, m.buf.wf Config.maxWindow = true → msSetup n { s with ms := m } = .next t) ∧
    (n = 0 ∨ 32 < n → msSetup n s = .refused (.setupOperand n))

/-- For a filter whose window is 1 to 32, whose index is inside it and whose sum is the buffer's,
MS_Run completes: the index advances modulo the window, the sum changes by the sample minus the
evicted element without wrapping and stays at most the window, the sample is stored at the new
index, every other element and every register outside the filter is unchanged, and the sum is
again the buffer's. -/
def Obligations.RunningSumUpdate : Prop :=
  ∀ (x : Bool) (s : State), 1 ≤ s.ms.len.toNat → s.ms.len.toNat ≤ 32 →
    s.ms.idx.toNat < s.ms.len.toNat → s.ms.sum.toNat = bufferSum s.ms.buf s.ms.len.toNat →
    s.ms.buf.wf Config.maxWindow = true →
    ∃ t, msRun x s = .next t ∧ t.ms.len = s.ms.len ∧
      t.ms.idx.toNat = (s.ms.idx.toNat + 1) % s.ms.len.toNat ∧
      t.ms.sum.toNat + (s.ms.buf.read t.ms.idx.toNat).toNat = s.ms.sum.toNat + x.toNat ∧
      t.ms.sum.toNat ≤ s.ms.len.toNat ∧
      t.ms.buf.read t.ms.idx.toNat = BitVec.ofBool x ∧
      (∀ a, a ≠ t.ms.idx.toNat → t.ms.buf.read a = s.ms.buf.read a) ∧
      t.ms.sum.toNat = bufferSum t.ms.buf t.ms.len.toNat ∧
      t.ms.buf.wf Config.maxWindow = true ∧ { t with ms := s.ms } = s

/-- After MS_Setup n (n from 1 to 32) on a canonical buffer and any sequence of samples, all runs
complete and ms_sum is the number of ones among the last n samples, or among all of them if there
are fewer than n. -/
def Obligations.RunningSumIsWindowSum : Prop :=
  ∀ (n : Nat) (s : State) (xs : List Bool), 1 ≤ n → n ≤ 32 →
    s.ms.buf.wf Config.maxWindow = true →
    ∃ t u, msSetup n s = .next t ∧ msFeed xs t = .next u ∧
      u.ms.sum.toNat = (xs.drop (xs.length - n)).count true

/-- While sess is armed the wheel phase is WheelMovsum when FRONTEND is MOVSUM and WheelDebounce when
it is DEBOUNCE; with sess not armed it changes nothing and yields no event. Whenever it completes,
the configuration, session, staging, decoder and output registers are unchanged, and so are the
parameters and the host side (fields by the model's choice, log entries 1 and 2); with the
debounce front end the filter is unchanged, and with the moving-sum front end the debounce
registers are. -/
def Obligations.WheelPhaseFrame : Prop :=
  ∀ (inp : Inputs) (s : State),
    (s.ss.sess.armed = true → s.par.frontend = .movsum → wheelPhase inp s = wheelMovsum inp s) ∧
    (s.ss.sess.armed = true → s.par.frontend = .debounce → wheelPhase inp s = wheelDebounce inp s) ∧
    (s.ss.sess.armed = false → wheelPhase inp s = .next (s, .none)) ∧
    ∀ (t : State) (ev : WheelEvent), wheelPhase inp s = .next (t, ev) →
      t.par = s.par ∧ t.cfg = s.cfg ∧ t.ss = s.ss ∧ t.tx = s.tx ∧ t.dec = s.dec ∧ t.out = s.out ∧
      t.host = s.host ∧
      (s.par.frontend = .debounce → t.ms = s.ms) ∧
      (s.par.frontend = .movsum → t.wh.prevIn = s.wh.prevIn ∧ t.wh.dcnt = s.wh.dcnt ∧
        t.wh.stopArmed = s.wh.stopArmed ∧ t.wh.stopCnt = s.wh.stopCnt)

/-- With the moving-sum front end and the wheel in OFF, after this tick's MS_Run (state m): if ms_sum
> ms_len - thr_on over the integers, the wheel commits to ON with off_dur + 1, on_dur 0, t_on =
ms_now, ind_axle 1 and W_ON; else off_dur + 1, with W_STOP exactly when that exceeds STOP_TICKS;
nothing else changes. -/
def Obligations.MovsumOffTransitions : Prop :=
  ∀ (inp : Inputs) (s m : State), msRun inp.cellIn s = .next m → m.wh.wheel = .off →
    wheelMovsum inp s =
      if m.ms.len.toNat < m.ms.sum.toNat + m.cfg.thrOn.toNat then
        .next ({ m with
          wh := { m.wh with wheel := .on, onDur := 0, tOn := inp.msNow, offDur := m.wh.offDur + 1 }
          ind := { m.ind with axle := true } }, .wOn)
      else .next ({ m with wh := { m.wh with offDur := m.wh.offDur + 1 } },
        if 3000 * m.par.tickHz / 1000 < (m.wh.offDur + 1).toNat then .wStop else .none)

/-- With the moving-sum front end and the wheel in ON, after this tick's MS_Run (state m): if ms_sum <
thr_off the wheel commits to OFF with on_dur + 1, t_off = ms_now, ind_axle 0, off_dur reset, and
W_AXLE carrying the values before the reset; else if on_dur + 1 > thr_err_s * TICK_HZ it goes to
ON_ERROR with ind_error 1 and W_ERR(off_dur); else only on_dur + 1. -/
def Obligations.MovsumOnTransitions : Prop :=
  ∀ (inp : Inputs) (s m : State), msRun inp.cellIn s = .next m → m.wh.wheel = .on →
    wheelMovsum inp s =
      if m.ms.sum.toNat < m.cfg.thrOff.toNat then
        .next ({ m with
          wh := { m.wh with wheel := .off, onDur := m.wh.onDur + 1, tOff := inp.msNow, offDur := 0 }
          ind := { m.ind with axle := false } },
          .wAxle (m.wh.onDur + 1) m.wh.offDur m.wh.tOn inp.msNow)
      else if m.cfg.thrErrS.toNat * m.par.tickHz < (m.wh.onDur + 1).toNat then
        .next ({ m with
          wh := { m.wh with wheel := .onError, onDur := m.wh.onDur + 1 }
          ind := { m.ind with error := true } }, .wErr m.wh.offDur)
      else .next ({ m with wh := { m.wh with onDur := m.wh.onDur + 1 } }, .none)

/-- With the moving-sum front end and the wheel in ON_ERROR, after this tick's MS_Run (state m): if
ms_sum is 0 the wheel goes to OFF with W_REC, both indicators cleared and no counter changed;
otherwise nothing changes and no event is yielded. -/
def Obligations.MovsumRecovery : Prop :=
  ∀ (inp : Inputs) (s m : State), msRun inp.cellIn s = .next m → m.wh.wheel = .onError →
    wheelMovsum inp s =
      if m.ms.sum = 0 then
        .next ({ m with wh := { m.wh with wheel := .off }, ind := { axle := false, error := false } },
          .wRec)
      else .next (m, .none)

/-- With the debounce front end, an edge being a cell level different from prev_in: in OFF a rising
edge goes to PRE_ON with the timer loaded and the stop timer cancelled; without an edge an armed
stop timer advances and, above STOP_TICKS, disarms itself with W_STOP. In PRE_ON a falling edge
goes back to OFF with the timer cleared; without one the timer counts down and at 0 commits to ON
with on_dur 0, t_on = ms_now, ind_axle 1 and W_ON. off_dur + 1 and prev_in = cell_in in every row. -/
def Obligations.DebounceAbsentTransitions : Prop :=
  ∀ (inp : Inputs) (s : State),
    (s.wh.wheel = .off → inp.cellIn = true → s.wh.prevIn = false →
      wheelDebounce inp s = .next ({ s with wh := { s.wh with
        wheel := .preOn, offDur := s.wh.offDur + 1, prevIn := true, stopArmed := false
        dcnt := BitVec.ofNat 32 (s.par.debounceMs * s.par.tickHz / 1000) } }, .none)) ∧
    (s.wh.wheel = .off → inp.cellIn = s.wh.prevIn → s.wh.stopArmed = true →
      wheelDebounce inp s = .next ({ s with wh := { s.wh with
        offDur := s.wh.offDur + 1, stopCnt := s.wh.stopCnt + 1
        stopArmed := decide ((s.wh.stopCnt + 1).toNat ≤ 3000 * s.par.tickHz / 1000) } },
        if (s.wh.stopCnt + 1).toNat ≤ 3000 * s.par.tickHz / 1000 then .none else .wStop)) ∧
    (s.wh.wheel = .off → inp.cellIn = s.wh.prevIn → s.wh.stopArmed = false →
      wheelDebounce inp s = .next ({ s with wh := { s.wh with offDur := s.wh.offDur + 1 } }, .none)) ∧
    (s.wh.wheel = .preOn → inp.cellIn = false → s.wh.prevIn = true →
      wheelDebounce inp s = .next ({ s with wh := { s.wh with
        wheel := .off, offDur := s.wh.offDur + 1, prevIn := false, stopArmed := false, dcnt := 0 } },
        .none)) ∧
    (s.wh.wheel = .preOn → inp.cellIn = true → s.wh.prevIn = true → s.wh.dcnt = 1 →
      wheelDebounce inp s = .next ({ s with
        wh := { s.wh with wheel := .on, offDur := s.wh.offDur + 1, dcnt := 0, onDur := 0
                          tOn := inp.msNow }
        ind := { s.ind with axle := true } }, .wOn)) ∧
    (s.wh.wheel = .preOn → inp.cellIn = true → s.wh.prevIn = true → s.wh.dcnt ≠ 1 →
      wheelDebounce inp s = .next ({ s with wh := { s.wh with
        offDur := s.wh.offDur + 1, dcnt := s.wh.dcnt - 1 } }, .none))

/-- With the debounce front end: in ON a falling edge goes to PRE_OFF with the timer loaded; without
one, on_dur + 1 > thr_err_s * TICK_HZ goes to ON_ERROR with ind_error 1 and W_ERR(off_dur), else
only on_dur + 1. In PRE_OFF a rising edge goes back to ON with the timer cleared; without one the
timer counts down and at 0 commits to OFF: ind_axle 0, t_off = ms_now, W_AXLE with the values
before off_dur is reset, and the stop timer armed from 0. -/
def Obligations.DebouncePresentTransitions : Prop :=
  ∀ (inp : Inputs) (s : State),
    (s.wh.wheel = .on → inp.cellIn = false → s.wh.prevIn = true →
      wheelDebounce inp s = .next ({ s with wh := { s.wh with
        wheel := .preOff, onDur := s.wh.onDur + 1, prevIn := false, stopArmed := false
        dcnt := BitVec.ofNat 32 (s.par.debounceMs * s.par.tickHz / 1000) } }, .none)) ∧
    (s.wh.wheel = .on → inp.cellIn = true → s.wh.prevIn = true →
      wheelDebounce inp s =
        if s.cfg.thrErrS.toNat * s.par.tickHz < (s.wh.onDur + 1).toNat then
          .next ({ s with
            wh := { s.wh with wheel := .onError, onDur := s.wh.onDur + 1 }
            ind := { s.ind with error := true } }, .wErr s.wh.offDur)
        else .next ({ s with wh := { s.wh with onDur := s.wh.onDur + 1 } }, .none)) ∧
    (s.wh.wheel = .preOff → inp.cellIn = true → s.wh.prevIn = false →
      wheelDebounce inp s = .next ({ s with wh := { s.wh with
        wheel := .on, onDur := s.wh.onDur + 1, prevIn := true, stopArmed := false, dcnt := 0 } },
        .none)) ∧
    (s.wh.wheel = .preOff → inp.cellIn = false → s.wh.prevIn = false → s.wh.dcnt = 1 →
      wheelDebounce inp s = .next ({ s with
        wh := { s.wh with wheel := .off, onDur := s.wh.onDur + 1, dcnt := 0, tOff := inp.msNow
                          offDur := 0, stopArmed := true, stopCnt := 0 }
        ind := { s.ind with axle := false } },
        .wAxle (s.wh.onDur + 1) s.wh.offDur s.wh.tOn inp.msNow)) ∧
    (s.wh.wheel = .preOff → inp.cellIn = false → s.wh.prevIn = false → s.wh.dcnt ≠ 1 →
      wheelDebounce inp s = .next ({ s with wh := { s.wh with
        onDur := s.wh.onDur + 1, dcnt := s.wh.dcnt - 1 } }, .none))

/-- With the debounce front end and the wheel in ON_ERROR: a falling edge loads the timer, a rising
edge clears it, both cancelling the stop timer; without an edge a running timer counts down, and
at 0 the wheel goes to OFF with W_REC and both indicators cleared, no counter reset and the stop
timer not armed; a stopped timer stays stopped. -/
def Obligations.DebounceRecovery : Prop :=
  ∀ (inp : Inputs) (s : State), s.wh.wheel = .onError →
    (inp.cellIn = false → s.wh.prevIn = true →
      wheelDebounce inp s = .next ({ s with wh := { s.wh with
        prevIn := false, stopArmed := false
        dcnt := BitVec.ofNat 32 (s.par.debounceMs * s.par.tickHz / 1000) } }, .none)) ∧
    (inp.cellIn = true → s.wh.prevIn = false →
      wheelDebounce inp s = .next ({ s with wh := { s.wh with
        prevIn := true, stopArmed := false, dcnt := 0 } }, .none)) ∧
    (inp.cellIn = s.wh.prevIn → s.wh.dcnt = 0 → wheelDebounce inp s = .next (s, .none)) ∧
    (inp.cellIn = s.wh.prevIn → s.wh.dcnt = 1 →
      wheelDebounce inp s = .next ({ s with
        wh := { s.wh with wheel := .off, dcnt := 0 }
        ind := { axle := false, error := false } }, .wRec)) ∧
    (inp.cellIn = s.wh.prevIn → s.wh.dcnt ≠ 0 → s.wh.dcnt ≠ 1 →
      wheelDebounce inp s = .next ({ s with wh := { s.wh with dcnt := s.wh.dcnt - 1 } }, .none))

/-- In IDLE with arm_in = 1, whatever sleep_in is, and a legal sum_len, the session phase completes:
sess is RDY, the session counters and timestamps, the wheel and debounce registers and the
indicators are cleared, the filter is set up with ms_len = sum_len, and the configuration,
staging, decoder, output and parameter fields are unchanged. -/
def Obligations.ArmingStartsSession : Prop :=
  ∀ (inp : Inputs) (ev : WheelEvent) (s : State), s.ss.sess = .idle → inp.armIn = true →
    1 ≤ s.cfg.sumLen.toNat → s.cfg.sumLen.toNat ≤ 32 → s.ms.buf.wf Config.maxWindow = true →
    sessionPhase inp ev s = .next { s with
      ms := { len := BitVec.ofNat 6 s.cfg.sumLen.toNat, sum := 0, idx := 0, buf := [] }
      wh := { wheel := .off, onDur := 0, offDur := 0, tOn := 0, tOff := 0
              prevIn := false, dcnt := 0, stopArmed := false, stopCnt := 0 }
      ind := { axle := false, error := false }
      ss := { sess := .rdy, axleCount := 0, passbyCount := 0, errorCount := 0
              pbStarted := false, passbyT0 := 0, lastAxleTs := 0 } }

/-- In IDLE with arm_in = 0 the session enters SLEEP exactly when sleep_in = 1; in SLEEP, whatever
arm_in is, it returns to IDLE exactly when sleep_in = 0; nothing else changes. -/
def Obligations.IdleAndSleepTransitions : Prop :=
  ∀ (inp : Inputs) (ev : WheelEvent) (s : State),
    (s.ss.sess = .idle → inp.armIn = false → sessionPhase inp ev s = .next
      (if inp.sleepIn then { s with ss := { s.ss with sess := .sleep } } else s)) ∧
    (s.ss.sess = .sleep → sessionPhase inp ev s = .next
      (if inp.sleepIn then s else { s with ss := { s.ss with sess := .idle } }))

/-- In RDY, PASSBY_ON, PASSBY_OFF or ERROR with arm_in = 0, whatever the wheel event: if pb_started,
the frame of STOP with passby_count and axle_count is pending, else nothing is staged; axle_count,
pb_started and both indicators are cleared and sess is IDLE; the wheel, the filter and everything
else is as it was. -/
def Obligations.DisarmEndsSession : Prop :=
  ∀ (inp : Inputs) (ev : WheelEvent) (s : State),
    (s.ss.sess = .rdy ∨ s.ss.sess = .passbyOn ∨ s.ss.sess = .passbyOff ∨ s.ss.sess = .error) →
    inp.armIn = false →
    sessionPhase inp ev s = .next { (if s.ss.pbStarted then
        s.pending [0x0A, BitVec.ofNat 8 s.ss.passbyCount.toNat,
          BitVec.ofNat 8 (s.ss.passbyCount.toNat / 2 ^ 8),
          BitVec.ofNat 8 s.ss.axleCount.toNat, BitVec.ofNat 8 (s.ss.axleCount.toNat / 2 ^ 8)]
        else s) with
      ss := { s.ss with sess := .idle, axleCount := 0, pbStarted := false }
      ind := { axle := false, error := false } }

/-- In PASSBY_ON with arm_in = 1 and W_AXLE(on, off, ton, toff), with mid = ton + ((toff - ton) mod
2^32) div 2: axle_count is incremented and sess is PASSBY_OFF; if no START was staged,
passby_count is incremented, pb_started set, passby_t0 = mid, last_axle_ts = 0 and
START(passby_count, mid) is what exec stages; otherwise last_axle_ts = mid - passby_t0 and
AXLE(on, off) is; nothing else changes. -/
def Obligations.AxleCompletionReports : Prop :=
  ∀ (inp : Inputs) (s : State) (on off ton toff mid : U32), s.ss.sess = .passbyOn →
    inp.armIn = true → mid = ton + BitVec.ofNat 32 ((toff - ton).toNat / 2) →
    (s.ss.pbStarted = false → ∃ t, exec (.msgStart (s.ss.passbyCount + 1) mid) s = .next t ∧
      sessionPhase inp (.wAxle on off ton toff) s = .next { t with ss := { s.ss with
        sess := .passbyOff, axleCount := s.ss.axleCount + 1, passbyCount := s.ss.passbyCount + 1
        pbStarted := true, passbyT0 := mid, lastAxleTs := 0 } }) ∧
    (s.ss.pbStarted = true → ∃ t, exec (.msgAxle on off) s = .next t ∧
      sessionPhase inp (.wAxle on off ton toff) s = .next { t with ss := { s.ss with
        sess := .passbyOff, axleCount := s.ss.axleCount + 1
        lastAxleTs := mid - s.ss.passbyT0 } })

/-- With arm_in = 1: in PASSBY_ON, W_ERR(off) increments error_count, stages the axle error message of
off and goes to ERROR, keeping the pass-by's registers; in ERROR, W_REC goes to PASSBY_OFF if
pb_started, else to RDY with axle_count cleared, and stages nothing. -/
def Obligations.SensorErrorAndRecovery : Prop :=
  ∀ (inp : Inputs) (s : State) (off : U32), inp.armIn = true →
    (s.ss.sess = .passbyOn → ∃ t, exec (.msgAxleErr off) s = .next t ∧
      sessionPhase inp (.wErr off) s = .next { t with ss :=
        { s.ss with sess := .error, errorCount := s.ss.errorCount + 1 } }) ∧
    (s.ss.sess = .error → sessionPhase inp .wRec s = .next { s with ss :=
      if s.ss.pbStarted then { s.ss with sess := .passbyOff }
      else { s.ss with sess := .rdy, axleCount := 0 } })

/-- With arm_in = 1: W_ON in RDY goes to PASSBY_ON with axle_count cleared and nothing staged; W_ON in
PASSBY_OFF goes to PASSBY_ON with nothing else changed; W_STOP in PASSBY_OFF stages
STOP(passby_count, axle_count), then clears axle_count and pb_started and goes to RDY. Under the
block's invariant pb_started is 1 in PASSBY_OFF, so STOP follows a START. -/
def Obligations.PassbyTransitions : Prop :=
  ∀ (inp : Inputs) (s : State), inp.armIn = true →
    (s.ss.sess = .rdy → sessionPhase inp .wOn s = .next { s with ss :=
      { s.ss with sess := .passbyOn, axleCount := 0 } }) ∧
    (s.ss.sess = .passbyOff → sessionPhase inp .wOn s = .next { s with ss :=
      { s.ss with sess := .passbyOn } }) ∧
    (s.ss.sess = .passbyOff → ∃ t,
      exec (.msgStop s.ss.passbyCount s.ss.axleCount) s = .next t ∧
      sessionPhase inp .wStop s = .next { t with ss :=
        { s.ss with sess := .rdy, axleCount := 0, pbStarted := false } }) ∧
    (s.ss.sess = .passbyOff → Inv s → s.ss.pbStarted = true)

/-- With arm_in = 1 in an armed state, a wheel event other than W_ON in RDY; W_AXLE or W_ERR in
PASSBY_ON; W_ON or W_STOP in PASSBY_OFF; W_REC in ERROR leaves the state unchanged. For the pairs
that R202 calls unreachable it allows a fault instead; that they are skipped is the model's choice
(log entry 7). -/
def Obligations.UnlistedEventsAreSkipped : Prop :=
  ∀ (inp : Inputs) (ev : WheelEvent) (s : State), inp.armIn = true → s.ss.sess.armed = true →
    ¬ (s.ss.sess = .rdy ∧ ev = .wOn) →
    ¬ (s.ss.sess = .passbyOn ∧ ((∃ on off ton toff, ev = .wAxle on off ton toff) ∨
        ∃ off, ev = .wErr off)) →
    ¬ (s.ss.sess = .passbyOff ∧ (ev = .wOn ∨ ev = .wStop)) →
    ¬ (s.ss.sess = .error ∧ ev = .wRec) →
    sessionPhase inp ev s = .next s

/-- For any ON time and any distance d below 2^32 to the OFF time, the midpoint of ton and ton + d is
ton + d div 2 modulo 2^32; without a wrap it is floor((ton + toff)/2). -/
def Obligations.MidpointIsFloorMean : Prop :=
  ∀ ton toff : U32,
    (ton.toNat ≤ toff.toNat → (midpoint ton toff).toNat = (ton.toNat + toff.toNat) / 2) ∧
    (toff.toNat < ton.toNat →
      (midpoint ton toff).toNat = (ton.toNat + (toff.toNat + 2 ^ 32 - ton.toNat) / 2) % 2 ^ 32)

/-- From every state with a legal configuration (a legal window and both thresholds below half of it),
every well-formed instruction that completes leaves it legal. -/
def Obligations.InstructionsKeepConfigurationLegal : Prop :=
  ∀ (i : Instr) (s t : State), i.wellFormed = true → ConfigInv s → exec i s = .next t → ConfigInv t

/-- Whatever the inputs, if a step completes and did not start in IDLE with a received byte offered,
the four configuration registers are unchanged. -/
def Obligations.ConfigurationChangesOnlyInIdle : Prop :=
  ∀ s t : State, step s = .next t → ¬ (s.ss.sess = .idle ∧ s.inputs.rxValid = true) → t.cfg = s.cfg

/-- Every step that completes leaves the decoder's registers and the build parameters as they were,
and takes exactly one tick of scheduled inputs. That the parameters are a field of the state is
the model's choice (log entry 2), and so are the scheduled inputs and the tick count (log entry
1), which are no state of the block. -/
def Obligations.StepLeavesDecoderAndParameters : Prop :=
  ∀ s t : State, step s = .next t →
    t.dec = s.dec ∧ t.par = s.par ∧ t.host.ticks = s.host.ticks + 1 ∧ t.host.stim = s.host.stim.tail

/-- In every step that completes: rx_ack is 1 exactly when a byte was offered and the step did not
start in SLEEP; a byte is sent only if the transmitter was ready and the step did not end in
SLEEP; ind_status is 1 if the step ends armed and 0 if it ends in SLEEP. -/
def Obligations.PortsOfAStep : Prop :=
  ∀ s t : State, step s = .next t →
    (t.out.rxAck = true ↔ s.inputs.rxValid = true ∧ s.ss.sess ≠ .sleep) ∧
    (t.out.tx ≠ none → s.inputs.txReady = true ∧ t.ss.sess ≠ .sleep) ∧
    (t.ss.sess.armed = true → t.indStatus = true) ∧ (t.ss.sess = .sleep → t.indStatus = false)

/-- In SLEEP with sleep_in = 1, whatever the cell, the arm level, an offered byte and the transmitter,
the step completes and only the tick is taken: every register, the pending frame included, is
unchanged, nothing is acknowledged and nothing is sent. -/
def Obligations.SleepHoldsEveryRegister : Prop :=
  ∀ s : State, s.ss.sess = .sleep → s.inputs.sleepIn = true →
    ∃ t, step s = .next t ∧ { t with out := s.out, host := s.host } = s ∧
      t.out.rxAck = false ∧ t.out.tx = none

/-- From a state in IDLE, with nothing sent in the step (transmitter not ready), a SETLEN byte 11 to
15 whose window keeps both thresholds legal, and arm_in = 1: the step completes in RDY with
sum_len and ms_len both 2^(b - 10), and the setup OK reply of that byte pending. -/
def Obligations.CommandBeforeArmingInOneStep : Prop :=
  ∀ (s : State) (b : Byte), s.ss.sess = .idle → s.ms.buf.wf Config.maxWindow = true →
    s.inputs.rxValid = true → s.inputs.rxByte = b → s.inputs.armIn = true →
    s.inputs.txReady = false → 11 ≤ b.toNat → b.toNat ≤ 15 →
    s.cfg.thrOn.toNat < 2 ^ (b.toNat - 10) / 2 → s.cfg.thrOff.toNat < 2 ^ (b.toNat - 10) / 2 →
    ∃ t, step s = .next t ∧ t.ss.sess = .rdy ∧
      t.cfg = { s.cfg with sumLen := BitVec.ofNat 8 (2 ^ (b.toNat - 10)) } ∧
      t.ms.len.toNat = 2 ^ (b.toNat - 10) ∧ t.tx = (s.pending [0x03, b]).tx

/-- From IDLE with any legal configuration, running the six commands of CONFIG n, on, off, s with n =
2^e, e from 1 to 5, on and off below n div 2 and at most 19 and s at most 3 completes, and the
configuration is then (n, on, off, s). -/
def Obligations.ConfigSequenceConfigures : Prop :=
  ∀ (s : State) (e on off sec : Byte), s.ss.sess = .idle → ConfigInv s →
    1 ≤ e.toNat → e.toNat ≤ 5 → on.toNat < 2 ^ e.toNat / 2 → off.toNat < 2 ^ e.toNat / 2 →
    sec.toNat ≤ 3 →
    ∃ t, execAll (configSequence e on off sec) s = .next t ∧
      t.cfg = { sumLen := BitVec.ofNat 8 (2 ^ e.toNat), thrOn := on, thrOff := off, thrErrS := sec }
end

