-- ==== Sys2Proof/Laws/Bytes.lean ====
section
/-! SUPPORT. Little-endian fields (20_memory R80): sending and reading back are inverse, and scaled
durations (R10) read back as what they kept. -/

namespace Sys2Proof

theorem fromLe16_le16 (v : U16) :
    fromLe16 (v.extractLsb' 0 8) (v.extractLsb' 8 8) = v := by
  unfold fromLe16
  ext i hi
  by_cases h : i < 8
  · simp [h, hi]
  · have : 8 + (i - 8) = i := by omega
    simp [h, hi, this, show i - 8 < 8 by omega]

theorem fromLe32_le32 (v : U32) :
    fromLe32 (v.extractLsb' 0 8) (v.extractLsb' 8 8) (v.extractLsb' 16 8) (v.extractLsb' 24 8)
      = v := by
  unfold fromLe32
  ext i hi
  rcases (by omega : i < 8 ∨ (8 ≤ i ∧ i < 16) ∨ (16 ≤ i ∧ i < 24) ∨ 24 ≤ i) with h | h | h | h
  · simp [h, hi, show i < 16 by omega, show i < 24 by omega]
  · have : 8 + (i - 8) = i := by omega
    simp [hi, this, show ¬ i < 8 by omega, show i - 8 < 8 by omega, show i < 16 by omega,
      show i < 24 by omega]
  · have : 16 + (i - 16) = i := by omega
    simp [hi, this, show ¬ i < 8 by omega, show ¬ i - 8 < 8 by omega, show ¬ i < 16 by omega,
      show i < 24 by omega, show i - 16 < 8 by omega]
  · have : 24 + (i - 24) = i := by omega
    simp [hi, this, show ¬ i < 8 by omega, show ¬ i - 8 < 8 by omega, show ¬ i < 16 by omega,
      show ¬ i < 24 by omega, show ¬ i - 16 < 8 by omega, show i - 24 < 8 by omega]

theorem le16_fromLe16 (a b : Byte) : le16 (fromLe16 a b) = [a, b] := by
  simp only [le16, fromLe16, List.cons.injEq, and_true]
  constructor <;> ext i hi
  · simp [hi, show i < 16 by omega]
  · simp [hi, show 8 + i < 16 by omega]

theorem le32_fromLe32 (a b c d : Byte) : le32 (fromLe32 a b c d) = [a, b, c, d] := by
  simp only [le32, fromLe32, List.cons.injEq, and_true]
  refine ⟨?_, ?_, ?_, ?_⟩ <;> ext i hi
  · simp [hi, show i < 32 by omega, show i < 16 by omega, show i < 24 by omega]
  · simp [hi, show 8 + i < 32 by omega, show 8 + i < 16 by omega, show 8 + i < 24 by omega]
  · simp [hi, show 16 + i < 32 by omega, show 16 + i < 24 by omega,
      BitVec.getLsbD_of_ge a (16 + i) (by omega), BitVec.getLsbD_of_ge b (16 + i - 8) (by omega)]
  · simp [hi, show 24 + i < 32 by omega, BitVec.getLsbD_of_ge a (24 + i) (by omega),
      BitVec.getLsbD_of_ge b (24 + i - 8) (by omega),
      BitVec.getLsbD_of_ge c (24 + i - 16) (by omega)]

/-- A field below 2^30 reads back as ticks that scale to it. -/
theorem unscale_eq_some {d off : U32} (h : unscale d = some off) : off >>> 2 = d := by
  unfold unscale at h
  split at h
  · cases h
    apply BitVec.eq_of_toNat_eq
    simp [Nat.shiftRight_eq_div_pow, Nat.shiftLeft_eq]
    omega
  · cases h

/-- A scaled duration always reads back. -/
theorem unscale_scaled (off : U32) : unscale (off >>> 2) = some ((off >>> 2) <<< 2) := by
  have := off.isLt
  unfold unscale
  rw [if_pos]
  simp [Nat.shiftRight_eq_div_pow]
  omega

end Sys2Proof
end

