-- ==== Sys2Proof/Laws/Memory.lean ====
section
/-! SUPPORT. The memories: a read sees the last write, a write leaves every other element alone, and
every operation keeps the canonical form, in which equal contents are equal data. -/

namespace Sys2Proof.Machine

variable {w : Nat}

@[simp] theorem Memory.read_nil (a : Nat) : Memory.read ([] : Memory w) a = 0 := rfl

theorem Memory.read_cons (k a : Nat) (v : BitVec w) (t : Memory w) :
    Memory.read ((k, v) :: t : Memory w) a = if k = a then v else Memory.read t a := rfl

theorem Memory.wfFrom_cons {size lo k : Nat} {v : BitVec w} {t : Memory w} :
    Memory.wfFrom size lo ((k, v) :: t : Memory w) = true ↔
      (lo ≤ k ∧ k < size) ∧ v ≠ 0 ∧ Memory.wfFrom size (k + 1) t = true := by
  simp [Memory.wfFrom, and_assoc]

/-- A canonical memory whose indices start at `lo` reads 0 below `lo`. -/
theorem Memory.read_below {size : Nat} (m : Memory w) :
    ∀ lo a : Nat, m.wfFrom size lo = true → a < lo → m.read a = 0 := by
  induction m with
  | nil => intros; rfl
  | cons p t ih =>
    obtain ⟨k, v⟩ := p
    intro lo a h ha
    obtain ⟨⟨hk, -⟩, -, ht⟩ := Memory.wfFrom_cons.mp h
    rw [Memory.read_cons, if_neg (by omega)]
    exact ih (k + 1) a ht (by omega)

/-- A write leaves every other element alone, in any memory. -/
theorem Memory.read_write_other (m : Memory w) (a b : Nat) (v : BitVec w) (h : b ≠ a) :
    (m.write a v).read b = m.read b := by
  induction m with
  | nil =>
    rw [Memory.write]
    split <;> simp [Memory.read_cons, h.symm]
  | cons p t ih =>
    obtain ⟨k, u⟩ := p
    rw [Memory.write]
    split
    · split <;> simp [Memory.read_cons, h.symm]
    · split
      · next hk => subst hk; split <;> simp [Memory.read_cons, h.symm]
      · simp only [Memory.read_cons, ih]

/-- In canonical form a read sees the last write. -/
theorem Memory.read_write_from {size : Nat} (m : Memory w) (a : Nat) (v : BitVec w) :
    ∀ lo, m.wfFrom size lo = true → (m.write a v).read a = v := by
  induction m with
  | nil =>
    intro _ _
    rw [Memory.write]
    split
    · next hv => exact hv.symm
    · simp [Memory.read_cons]
  | cons p t ih =>
    obtain ⟨k, u⟩ := p
    intro lo h
    obtain ⟨-, -, ht⟩ := Memory.wfFrom_cons.mp h
    rw [Memory.write]
    split
    · next hak =>
      split
      · next hv =>
        rw [Memory.read_cons, if_neg (by omega), hv]
        exact Memory.read_below t (k + 1) a ht (by omega)
      · simp [Memory.read_cons]
    · split
      · next hk =>
        subst hk
        split
        · next hv => rw [hv]; exact Memory.read_below t (a + 1) a ht (by omega)
        · simp [Memory.read_cons]
      · next hne => rw [Memory.read_cons, if_neg (fun e => hne e.symm)]; exact ih (k + 1) ht

theorem Memory.read_write_same {size : Nat} {m : Memory w} (h : m.wf size = true) (a : Nat)
    (v : BitVec w) : (m.write a v).read a = v :=
  Memory.read_write_from m a v 0 h

theorem Memory.wfFrom_mono {size : Nat} (m : Memory w) :
    ∀ lo lo', lo' ≤ lo → m.wfFrom size lo = true → m.wfFrom size lo' = true := by
  cases m with
  | nil => intros; rfl
  | cons p t =>
    obtain ⟨k, v⟩ := p
    intro lo lo' hl h
    obtain ⟨⟨hk, hs⟩, hv, ht⟩ := Memory.wfFrom_cons.mp h
    exact Memory.wfFrom_cons.mpr ⟨⟨by omega, hs⟩, hv, ht⟩

/-- A write inside the memory keeps the canonical form. -/
theorem Memory.write_wfFrom {size : Nat} (m : Memory w) (a : Nat) (v : BitVec w) (ha : a < size) :
    ∀ lo, lo ≤ a → m.wfFrom size lo = true → (m.write a v).wfFrom size lo = true := by
  induction m with
  | nil =>
    intro lo hlo _
    rw [Memory.write]
    split
    · rfl
    · next hv => exact Memory.wfFrom_cons.mpr ⟨⟨hlo, ha⟩, hv, rfl⟩
  | cons p t ih =>
    obtain ⟨k, u⟩ := p
    intro lo hlo h
    obtain ⟨⟨hk, hs⟩, hu, ht⟩ := Memory.wfFrom_cons.mp h
    rw [Memory.write]
    split
    · next hak =>
      split
      · exact h
      · next hv =>
        exact Memory.wfFrom_cons.mpr
          ⟨⟨hlo, ha⟩, hv, Memory.wfFrom_cons.mpr ⟨⟨by omega, hs⟩, hu, ht⟩⟩
    · split
      · next hk' =>
        split
        · exact Memory.wfFrom_mono t (k + 1) lo (by omega) ht
        · next hv => exact Memory.wfFrom_cons.mpr ⟨⟨hlo, ha⟩, hv, hk' ▸ ht⟩
      · exact Memory.wfFrom_cons.mpr ⟨⟨hk, hs⟩, hu, ih (k + 1) (by omega) ht⟩

theorem Memory.write_wf {size : Nat} {m : Memory w} (h : m.wf size = true) {a : Nat}
    (ha : a < size) (v : BitVec w) : (m.write a v).wf size = true :=
  Memory.write_wfFrom m a v ha 0 (Nat.zero_le a) h

theorem Memory.writeAll_wf {size : Nat} (l : List (BitVec w)) :
    ∀ (m : Memory w) (a : Nat), m.wf size = true → a + l.length ≤ size →
      (m.writeAll a l).wf size = true := by
  induction l with
  | nil => intro m a h _; exact h
  | cons v t ih =>
    intro m a h hl
    simp only [List.length_cons] at hl
    exact ih _ _ (Memory.write_wf h (by omega) v) (by omega)

/-- Consecutive writes leave every element outside their range alone. -/
theorem Memory.read_writeAll_outside (l : List (BitVec w)) :
    ∀ (m : Memory w) (a b : Nat), b < a ∨ a + l.length ≤ b → (m.writeAll a l).read b = m.read b := by
  induction l with
  | nil => intros; rfl
  | cons v t ih =>
    intro m a b h
    simp only [List.length_cons] at h
    rw [Memory.writeAll, ih _ _ _ (by omega), Memory.read_write_other m a b v (by omega)]

/-- Consecutive writes are read back in order. -/
theorem Memory.read_writeAll_inside {size : Nat} (l : List (BitVec w)) :
    ∀ (m : Memory w) (a i : Nat), m.wf size = true → a + l.length ≤ size → (h : i < l.length) →
      (m.writeAll a l).read (a + i) = l[i] := by
  induction l with
  | nil => intro _ _ i _ _ h; exact absurd h (by simp)
  | cons v t ih =>
    intro m a i hm hl h
    simp only [List.length_cons] at hl h
    rw [Memory.writeAll]
    cases i with
    | zero =>
      rw [Memory.read_writeAll_outside _ _ _ _ (by omega)]
      exact Memory.read_write_same hm a v
    | succ j =>
      have := ih (m.write a v) (a + 1) j (Memory.write_wf hm (by omega) v) (by omega) (by omega)
      rw [show a + (j + 1) = a + 1 + j by omega, this]
      rfl

theorem Memory.clear_wf {size : Nat} {m : Memory w} (h : m.wf size = true) (n : Nat)
    (hn : n ≤ size) : (m.clear n).wf size = true :=
  Memory.writeAll_wf _ m 0 h (by simpa using hn)

/-- Equal contents are equal data. -/
theorem Memory.ext_from {size : Nat} (m m' : Memory w) :
    ∀ lo, m.wfFrom size lo = true → m'.wfFrom size lo = true → (∀ a, m.read a = m'.read a) →
      m = m' := by
  induction m generalizing m' with
  | nil =>
    intro lo _ h' he
    cases m' with
    | nil => rfl
    | cons p t =>
      obtain ⟨k, v⟩ := p
      have := he k
      simp [Memory.read_cons] at this
      exact absurd this.symm (Memory.wfFrom_cons.mp h').2.1
  | cons p t ih =>
    obtain ⟨k, v⟩ := p
    intro lo h h' he
    obtain ⟨-, hv, ht⟩ := Memory.wfFrom_cons.mp h
    cases m' with
    | nil =>
      have := he k
      simp [Memory.read_cons] at this
      exact absurd this hv
    | cons p' t' =>
      obtain ⟨k', v'⟩ := p'
      obtain ⟨-, hv', ht'⟩ := Memory.wfFrom_cons.mp h'
      have e1 := he k
      have e2 := he k'
      simp only [Memory.read_cons, if_true] at e1 e2
      have hk : k = k' := by
        rcases Nat.lt_trichotomy k k' with hlt | heq | hgt
        · rw [if_neg (by omega), Memory.read_below t' (k' + 1) k ht' (by omega)] at e1
          exact absurd e1 hv
        · exact heq
        · rw [if_neg (by omega), Memory.read_below t (k + 1) k' ht (by omega)] at e2
          exact absurd e2.symm hv'
      subst hk
      have hvv : v = v' := by simpa using e1
      subst hvv
      have : t = t' := ih t' (k + 1) ht ht' (fun a => by
        have e := he a
        simp only [Memory.read_cons] at e
        by_cases ha : k = a
        · rw [Memory.read_below t (k + 1) a ht (by omega),
            Memory.read_below t' (k + 1) a ht' (by omega)]
        · simpa [ha] using e)
      rw [this]

theorem Memory.ext_of_read {size : Nat} {m m' : Memory w} (h : m.wf size = true)
    (h' : m'.wf size = true) (he : ∀ a, m.read a = m'.read a) : m = m' :=
  Memory.ext_from m m' 0 h h' he

end Sys2Proof.Machine
end

