-- ==== Sys2Proof/Laws/State.lean ====
section
/-! SUPPORT. One lemma per update and field of State: what the update leaves alone, and what it
writes. -/

namespace Sys2Proof.Machine

section
variable (v : Bool) (s : State)
@[simp] theorem State.setIndAxle_par : (State.setIndAxle v s).par = s.par := rfl
@[simp] theorem State.setIndAxle_cfg : (State.setIndAxle v s).cfg = s.cfg := rfl
@[simp] theorem State.setIndAxle_ms : (State.setIndAxle v s).ms = s.ms := rfl
@[simp] theorem State.setIndAxle_wh : (State.setIndAxle v s).wh = s.wh := rfl
@[simp] theorem State.setIndAxle_ind : (State.setIndAxle v s).ind = { s.ind with axle := v } := rfl
@[simp] theorem State.setIndAxle_ss : (State.setIndAxle v s).ss = s.ss := rfl
@[simp] theorem State.setIndAxle_tx : (State.setIndAxle v s).tx = s.tx := rfl
@[simp] theorem State.setIndAxle_dec : (State.setIndAxle v s).dec = s.dec := rfl
@[simp] theorem State.setIndAxle_out : (State.setIndAxle v s).out = s.out := rfl
@[simp] theorem State.setIndAxle_host : (State.setIndAxle v s).host = s.host := rfl
end

section
variable (v : Bool) (s : State)
@[simp] theorem State.setIndError_par : (State.setIndError v s).par = s.par := rfl
@[simp] theorem State.setIndError_cfg : (State.setIndError v s).cfg = s.cfg := rfl
@[simp] theorem State.setIndError_ms : (State.setIndError v s).ms = s.ms := rfl
@[simp] theorem State.setIndError_wh : (State.setIndError v s).wh = s.wh := rfl
@[simp] theorem State.setIndError_ind : (State.setIndError v s).ind = { s.ind with error := v } := rfl
@[simp] theorem State.setIndError_ss : (State.setIndError v s).ss = s.ss := rfl
@[simp] theorem State.setIndError_tx : (State.setIndError v s).tx = s.tx := rfl
@[simp] theorem State.setIndError_dec : (State.setIndError v s).dec = s.dec := rfl
@[simp] theorem State.setIndError_out : (State.setIndError v s).out = s.out := rfl
@[simp] theorem State.setIndError_host : (State.setIndError v s).host = s.host := rfl
end

section
variable (s : State)
@[simp] theorem State.clearIndicators_par : (State.clearIndicators s).par = s.par := rfl
@[simp] theorem State.clearIndicators_cfg : (State.clearIndicators s).cfg = s.cfg := rfl
@[simp] theorem State.clearIndicators_ms : (State.clearIndicators s).ms = s.ms := rfl
@[simp] theorem State.clearIndicators_wh : (State.clearIndicators s).wh = s.wh := rfl
@[simp] theorem State.clearIndicators_ind : (State.clearIndicators s).ind = { axle := false, error := false } := rfl
@[simp] theorem State.clearIndicators_ss : (State.clearIndicators s).ss = s.ss := rfl
@[simp] theorem State.clearIndicators_tx : (State.clearIndicators s).tx = s.tx := rfl
@[simp] theorem State.clearIndicators_dec : (State.clearIndicators s).dec = s.dec := rfl
@[simp] theorem State.clearIndicators_out : (State.clearIndicators s).out = s.out := rfl
@[simp] theorem State.clearIndicators_host : (State.clearIndicators s).host = s.host := rfl
end

section
variable (f : List Byte) (s : State)
@[simp] theorem State.withFrame_par : (State.withFrame f s).par = s.par := rfl
@[simp] theorem State.withFrame_cfg : (State.withFrame f s).cfg = s.cfg := rfl
@[simp] theorem State.withFrame_ms : (State.withFrame f s).ms = s.ms := rfl
@[simp] theorem State.withFrame_wh : (State.withFrame f s).wh = s.wh := rfl
@[simp] theorem State.withFrame_ind : (State.withFrame f s).ind = s.ind := rfl
@[simp] theorem State.withFrame_ss : (State.withFrame f s).ss = s.ss := rfl
@[simp] theorem State.withFrame_tx : (State.withFrame f s).tx = { buf := s.tx.buf.writeAll 0 f, len := BitVec.ofNat 5 f.length, pos := 0 } := rfl
@[simp] theorem State.withFrame_dec : (State.withFrame f s).dec = s.dec := rfl
@[simp] theorem State.withFrame_out : (State.withFrame f s).out = s.out := rfl
@[simp] theorem State.withFrame_host : (State.withFrame f s).host = s.host := rfl
end

section
variable (s : State)
@[simp] theorem State.ackRx_par : (State.ackRx s).par = s.par := rfl
@[simp] theorem State.ackRx_cfg : (State.ackRx s).cfg = s.cfg := rfl
@[simp] theorem State.ackRx_ms : (State.ackRx s).ms = s.ms := rfl
@[simp] theorem State.ackRx_wh : (State.ackRx s).wh = s.wh := rfl
@[simp] theorem State.ackRx_ind : (State.ackRx s).ind = s.ind := rfl
@[simp] theorem State.ackRx_ss : (State.ackRx s).ss = s.ss := rfl
@[simp] theorem State.ackRx_tx : (State.ackRx s).tx = s.tx := rfl
@[simp] theorem State.ackRx_dec : (State.ackRx s).dec = s.dec := rfl
@[simp] theorem State.ackRx_out : (State.ackRx s).out = { s.out with rxAck := true } := rfl
@[simp] theorem State.ackRx_host : (State.ackRx s).host = s.host := rfl
end

section
variable (s : State)
@[simp] theorem State.beginStep_par : (State.beginStep s).par = s.par := rfl
@[simp] theorem State.beginStep_cfg : (State.beginStep s).cfg = s.cfg := rfl
@[simp] theorem State.beginStep_ms : (State.beginStep s).ms = s.ms := rfl
@[simp] theorem State.beginStep_wh : (State.beginStep s).wh = s.wh := rfl
@[simp] theorem State.beginStep_ind : (State.beginStep s).ind = s.ind := rfl
@[simp] theorem State.beginStep_ss : (State.beginStep s).ss = s.ss := rfl
@[simp] theorem State.beginStep_tx : (State.beginStep s).tx = s.tx := rfl
@[simp] theorem State.beginStep_dec : (State.beginStep s).dec = s.dec := rfl
@[simp] theorem State.beginStep_out : (State.beginStep s).out = { rxAck := false, tx := none } := rfl
@[simp] theorem State.beginStep_host : (State.beginStep s).host = { stim := s.host.stim.tail, ticks := s.host.ticks + 1 } := rfl
end

section
variable (n : Byte) (s : State)
@[simp] theorem State.setSumLen_par : (State.setSumLen n s).par = s.par := rfl
@[simp] theorem State.setSumLen_cfg : (State.setSumLen n s).cfg = { s.cfg with sumLen := n } := rfl
@[simp] theorem State.setSumLen_ms : (State.setSumLen n s).ms = s.ms := rfl
@[simp] theorem State.setSumLen_wh : (State.setSumLen n s).wh = s.wh := rfl
@[simp] theorem State.setSumLen_ind : (State.setSumLen n s).ind = s.ind := rfl
@[simp] theorem State.setSumLen_ss : (State.setSumLen n s).ss = s.ss := rfl
@[simp] theorem State.setSumLen_tx : (State.setSumLen n s).tx = s.tx := rfl
@[simp] theorem State.setSumLen_dec : (State.setSumLen n s).dec = s.dec := rfl
@[simp] theorem State.setSumLen_out : (State.setSumLen n s).out = s.out := rfl
@[simp] theorem State.setSumLen_host : (State.setSumLen n s).host = s.host := rfl
end

section
variable (v : Byte) (s : State)
@[simp] theorem State.setThrOn_par : (State.setThrOn v s).par = s.par := rfl
@[simp] theorem State.setThrOn_cfg : (State.setThrOn v s).cfg = { s.cfg with thrOn := v } := rfl
@[simp] theorem State.setThrOn_ms : (State.setThrOn v s).ms = s.ms := rfl
@[simp] theorem State.setThrOn_wh : (State.setThrOn v s).wh = s.wh := rfl
@[simp] theorem State.setThrOn_ind : (State.setThrOn v s).ind = s.ind := rfl
@[simp] theorem State.setThrOn_ss : (State.setThrOn v s).ss = s.ss := rfl
@[simp] theorem State.setThrOn_tx : (State.setThrOn v s).tx = s.tx := rfl
@[simp] theorem State.setThrOn_dec : (State.setThrOn v s).dec = s.dec := rfl
@[simp] theorem State.setThrOn_out : (State.setThrOn v s).out = s.out := rfl
@[simp] theorem State.setThrOn_host : (State.setThrOn v s).host = s.host := rfl
end

section
variable (v : Byte) (s : State)
@[simp] theorem State.setThrOff_par : (State.setThrOff v s).par = s.par := rfl
@[simp] theorem State.setThrOff_cfg : (State.setThrOff v s).cfg = { s.cfg with thrOff := v } := rfl
@[simp] theorem State.setThrOff_ms : (State.setThrOff v s).ms = s.ms := rfl
@[simp] theorem State.setThrOff_wh : (State.setThrOff v s).wh = s.wh := rfl
@[simp] theorem State.setThrOff_ind : (State.setThrOff v s).ind = s.ind := rfl
@[simp] theorem State.setThrOff_ss : (State.setThrOff v s).ss = s.ss := rfl
@[simp] theorem State.setThrOff_tx : (State.setThrOff v s).tx = s.tx := rfl
@[simp] theorem State.setThrOff_dec : (State.setThrOff v s).dec = s.dec := rfl
@[simp] theorem State.setThrOff_out : (State.setThrOff v s).out = s.out := rfl
@[simp] theorem State.setThrOff_host : (State.setThrOff v s).host = s.host := rfl
end

section
variable (v : Byte) (s : State)
@[simp] theorem State.setThrErrS_par : (State.setThrErrS v s).par = s.par := rfl
@[simp] theorem State.setThrErrS_cfg : (State.setThrErrS v s).cfg = { s.cfg with thrErrS := v } := rfl
@[simp] theorem State.setThrErrS_ms : (State.setThrErrS v s).ms = s.ms := rfl
@[simp] theorem State.setThrErrS_wh : (State.setThrErrS v s).wh = s.wh := rfl
@[simp] theorem State.setThrErrS_ind : (State.setThrErrS v s).ind = s.ind := rfl
@[simp] theorem State.setThrErrS_ss : (State.setThrErrS v s).ss = s.ss := rfl
@[simp] theorem State.setThrErrS_tx : (State.setThrErrS v s).tx = s.tx := rfl
@[simp] theorem State.setThrErrS_dec : (State.setThrErrS v s).dec = s.dec := rfl
@[simp] theorem State.setThrErrS_out : (State.setThrErrS v s).out = s.out := rfl
@[simp] theorem State.setThrErrS_host : (State.setThrErrS v s).host = s.host := rfl
end

section
variable (w : Wheel) (s : State)
@[simp] theorem State.setWheel_par : (State.setWheel w s).par = s.par := rfl
@[simp] theorem State.setWheel_cfg : (State.setWheel w s).cfg = s.cfg := rfl
@[simp] theorem State.setWheel_ms : (State.setWheel w s).ms = s.ms := rfl
@[simp] theorem State.setWheel_wh : (State.setWheel w s).wh = { s.wh with wheel := w } := rfl
@[simp] theorem State.setWheel_ind : (State.setWheel w s).ind = s.ind := rfl
@[simp] theorem State.setWheel_ss : (State.setWheel w s).ss = s.ss := rfl
@[simp] theorem State.setWheel_tx : (State.setWheel w s).tx = s.tx := rfl
@[simp] theorem State.setWheel_dec : (State.setWheel w s).dec = s.dec := rfl
@[simp] theorem State.setWheel_out : (State.setWheel w s).out = s.out := rfl
@[simp] theorem State.setWheel_host : (State.setWheel w s).host = s.host := rfl
end

section
variable (s : State)
@[simp] theorem State.countOff_par : (State.countOff s).par = s.par := rfl
@[simp] theorem State.countOff_cfg : (State.countOff s).cfg = s.cfg := rfl
@[simp] theorem State.countOff_ms : (State.countOff s).ms = s.ms := rfl
@[simp] theorem State.countOff_wh : (State.countOff s).wh = { s.wh with offDur := s.wh.offDur + 1 } := rfl
@[simp] theorem State.countOff_ind : (State.countOff s).ind = s.ind := rfl
@[simp] theorem State.countOff_ss : (State.countOff s).ss = s.ss := rfl
@[simp] theorem State.countOff_tx : (State.countOff s).tx = s.tx := rfl
@[simp] theorem State.countOff_dec : (State.countOff s).dec = s.dec := rfl
@[simp] theorem State.countOff_out : (State.countOff s).out = s.out := rfl
@[simp] theorem State.countOff_host : (State.countOff s).host = s.host := rfl
end

section
variable (s : State)
@[simp] theorem State.countOn_par : (State.countOn s).par = s.par := rfl
@[simp] theorem State.countOn_cfg : (State.countOn s).cfg = s.cfg := rfl
@[simp] theorem State.countOn_ms : (State.countOn s).ms = s.ms := rfl
@[simp] theorem State.countOn_wh : (State.countOn s).wh = { s.wh with onDur := s.wh.onDur + 1 } := rfl
@[simp] theorem State.countOn_ind : (State.countOn s).ind = s.ind := rfl
@[simp] theorem State.countOn_ss : (State.countOn s).ss = s.ss := rfl
@[simp] theorem State.countOn_tx : (State.countOn s).tx = s.tx := rfl
@[simp] theorem State.countOn_dec : (State.countOn s).dec = s.dec := rfl
@[simp] theorem State.countOn_out : (State.countOn s).out = s.out := rfl
@[simp] theorem State.countOn_host : (State.countOn s).host = s.host := rfl
end

section
variable (v : U32) (s : State)
@[simp] theorem State.setDcnt_par : (State.setDcnt v s).par = s.par := rfl
@[simp] theorem State.setDcnt_cfg : (State.setDcnt v s).cfg = s.cfg := rfl
@[simp] theorem State.setDcnt_ms : (State.setDcnt v s).ms = s.ms := rfl
@[simp] theorem State.setDcnt_wh : (State.setDcnt v s).wh = { s.wh with dcnt := v } := rfl
@[simp] theorem State.setDcnt_ind : (State.setDcnt v s).ind = s.ind := rfl
@[simp] theorem State.setDcnt_ss : (State.setDcnt v s).ss = s.ss := rfl
@[simp] theorem State.setDcnt_tx : (State.setDcnt v s).tx = s.tx := rfl
@[simp] theorem State.setDcnt_dec : (State.setDcnt v s).dec = s.dec := rfl
@[simp] theorem State.setDcnt_out : (State.setDcnt v s).out = s.out := rfl
@[simp] theorem State.setDcnt_host : (State.setDcnt v s).host = s.host := rfl
end

section
variable (s : State)
@[simp] theorem State.startDebounce_par : (State.startDebounce s).par = s.par := rfl
@[simp] theorem State.startDebounce_cfg : (State.startDebounce s).cfg = s.cfg := rfl
@[simp] theorem State.startDebounce_ms : (State.startDebounce s).ms = s.ms := rfl
@[simp] theorem State.startDebounce_wh : (State.startDebounce s).wh = { s.wh with dcnt := BitVec.ofNat 32 (debTicks s.par) } := rfl
@[simp] theorem State.startDebounce_ind : (State.startDebounce s).ind = s.ind := rfl
@[simp] theorem State.startDebounce_ss : (State.startDebounce s).ss = s.ss := rfl
@[simp] theorem State.startDebounce_tx : (State.startDebounce s).tx = s.tx := rfl
@[simp] theorem State.startDebounce_dec : (State.startDebounce s).dec = s.dec := rfl
@[simp] theorem State.startDebounce_out : (State.startDebounce s).out = s.out := rfl
@[simp] theorem State.startDebounce_host : (State.startDebounce s).host = s.host := rfl
end

section
variable (s : State)
@[simp] theorem State.armStop_par : (State.armStop s).par = s.par := rfl
@[simp] theorem State.armStop_cfg : (State.armStop s).cfg = s.cfg := rfl
@[simp] theorem State.armStop_ms : (State.armStop s).ms = s.ms := rfl
@[simp] theorem State.armStop_wh : (State.armStop s).wh = { s.wh with stopArmed := true, stopCnt := 0 } := rfl
@[simp] theorem State.armStop_ind : (State.armStop s).ind = s.ind := rfl
@[simp] theorem State.armStop_ss : (State.armStop s).ss = s.ss := rfl
@[simp] theorem State.armStop_tx : (State.armStop s).tx = s.tx := rfl
@[simp] theorem State.armStop_dec : (State.armStop s).dec = s.dec := rfl
@[simp] theorem State.armStop_out : (State.armStop s).out = s.out := rfl
@[simp] theorem State.armStop_host : (State.armStop s).host = s.host := rfl
end

section
variable (inp : Inputs) (s : State)
@[simp] theorem sampleEdge_par : (sampleEdge inp s).par = s.par := rfl
@[simp] theorem sampleEdge_cfg : (sampleEdge inp s).cfg = s.cfg := rfl
@[simp] theorem sampleEdge_ms : (sampleEdge inp s).ms = s.ms := rfl
@[simp] theorem sampleEdge_ind : (sampleEdge inp s).ind = s.ind := rfl
@[simp] theorem sampleEdge_ss : (sampleEdge inp s).ss = s.ss := rfl
@[simp] theorem sampleEdge_tx : (sampleEdge inp s).tx = s.tx := rfl
@[simp] theorem sampleEdge_dec : (sampleEdge inp s).dec = s.dec := rfl
@[simp] theorem sampleEdge_out : (sampleEdge inp s).out = s.out := rfl
@[simp] theorem sampleEdge_host : (sampleEdge inp s).host = s.host := rfl
end

section
variable (v : Session) (s : State)
@[simp] theorem State.setSession_par : (State.setSession v s).par = s.par := rfl
@[simp] theorem State.setSession_cfg : (State.setSession v s).cfg = s.cfg := rfl
@[simp] theorem State.setSession_ms : (State.setSession v s).ms = s.ms := rfl
@[simp] theorem State.setSession_wh : (State.setSession v s).wh = s.wh := rfl
@[simp] theorem State.setSession_ind : (State.setSession v s).ind = s.ind := rfl
@[simp] theorem State.setSession_ss : (State.setSession v s).ss = { s.ss with sess := v } := rfl
@[simp] theorem State.setSession_tx : (State.setSession v s).tx = s.tx := rfl
@[simp] theorem State.setSession_dec : (State.setSession v s).dec = s.dec := rfl
@[simp] theorem State.setSession_out : (State.setSession v s).out = s.out := rfl
@[simp] theorem State.setSession_host : (State.setSession v s).host = s.host := rfl
end

section
variable (s : State)
@[simp] theorem State.clearForArm_par : (State.clearForArm s).par = s.par := rfl
@[simp] theorem State.clearForArm_cfg : (State.clearForArm s).cfg = s.cfg := rfl
@[simp] theorem State.clearForArm_ms : (State.clearForArm s).ms = s.ms := rfl
@[simp] theorem State.clearForArm_ind : (State.clearForArm s).ind = { axle := false, error := false } := rfl
@[simp] theorem State.clearForArm_tx : (State.clearForArm s).tx = s.tx := rfl
@[simp] theorem State.clearForArm_dec : (State.clearForArm s).dec = s.dec := rfl
@[simp] theorem State.clearForArm_out : (State.clearForArm s).out = s.out := rfl
@[simp] theorem State.clearForArm_host : (State.clearForArm s).host = s.host := rfl
end

section
variable (s : State)
@[simp] theorem firstWheel_par : (firstWheel s).par = s.par := rfl
@[simp] theorem firstWheel_cfg : (firstWheel s).cfg = s.cfg := rfl
@[simp] theorem firstWheel_ms : (firstWheel s).ms = s.ms := rfl
@[simp] theorem firstWheel_wh : (firstWheel s).wh = s.wh := rfl
@[simp] theorem firstWheel_ind : (firstWheel s).ind = s.ind := rfl
@[simp] theorem firstWheel_ss : (firstWheel s).ss = { s.ss with axleCount := 0, sess := .passbyOn } := rfl
@[simp] theorem firstWheel_tx : (firstWheel s).tx = s.tx := rfl
@[simp] theorem firstWheel_dec : (firstWheel s).dec = s.dec := rfl
@[simp] theorem firstWheel_out : (firstWheel s).out = s.out := rfl
@[simp] theorem firstWheel_host : (firstWheel s).host = s.host := rfl
end

section
variable (s : State)
@[simp] theorem sensorRecovered_par : (sensorRecovered s).par = s.par := by
  unfold sensorRecovered; split <;> rfl
@[simp] theorem sensorRecovered_cfg : (sensorRecovered s).cfg = s.cfg := by
  unfold sensorRecovered; split <;> rfl
@[simp] theorem sensorRecovered_ms : (sensorRecovered s).ms = s.ms := by
  unfold sensorRecovered; split <;> rfl
@[simp] theorem sensorRecovered_wh : (sensorRecovered s).wh = s.wh := by
  unfold sensorRecovered; split <;> rfl
@[simp] theorem sensorRecovered_ind : (sensorRecovered s).ind = s.ind := by
  unfold sensorRecovered; split <;> rfl
@[simp] theorem sensorRecovered_tx : (sensorRecovered s).tx = s.tx := by
  unfold sensorRecovered; split <;> rfl
@[simp] theorem sensorRecovered_dec : (sensorRecovered s).dec = s.dec := by
  unfold sensorRecovered; split <;> rfl
@[simp] theorem sensorRecovered_out : (sensorRecovered s).out = s.out := by
  unfold sensorRecovered; split <;> rfl
@[simp] theorem sensorRecovered_host : (sensorRecovered s).host = s.host := by
  unfold sensorRecovered; split <;> rfl
end

section
variable (s : State)
@[simp] theorem State.sendByte_par : (State.sendByte s).par = s.par := rfl
@[simp] theorem State.sendByte_cfg : (State.sendByte s).cfg = s.cfg := rfl
@[simp] theorem State.sendByte_ms : (State.sendByte s).ms = s.ms := rfl
@[simp] theorem State.sendByte_wh : (State.sendByte s).wh = s.wh := rfl
@[simp] theorem State.sendByte_ind : (State.sendByte s).ind = s.ind := rfl
@[simp] theorem State.sendByte_ss : (State.sendByte s).ss = s.ss := rfl
@[simp] theorem State.sendByte_dec : (State.sendByte s).dec = s.dec := rfl
@[simp] theorem State.sendByte_host : (State.sendByte s).host = s.host := rfl
end

section
variable (v : DecoderMode) (s : State)
@[simp] theorem State.setDecoder_par : (State.setDecoder v s).par = s.par := rfl
@[simp] theorem State.setDecoder_cfg : (State.setDecoder v s).cfg = s.cfg := rfl
@[simp] theorem State.setDecoder_ms : (State.setDecoder v s).ms = s.ms := rfl
@[simp] theorem State.setDecoder_wh : (State.setDecoder v s).wh = s.wh := rfl
@[simp] theorem State.setDecoder_ind : (State.setDecoder v s).ind = s.ind := rfl
@[simp] theorem State.setDecoder_ss : (State.setDecoder v s).ss = s.ss := rfl
@[simp] theorem State.setDecoder_tx : (State.setDecoder v s).tx = s.tx := rfl
@[simp] theorem State.setDecoder_dec : (State.setDecoder v s).dec = { s.dec with st := v } := rfl
@[simp] theorem State.setDecoder_out : (State.setDecoder v s).out = s.out := rfl
@[simp] theorem State.setDecoder_host : (State.setDecoder v s).host = s.host := rfl
end

end Sys2Proof.Machine
end

