-- ==== Sys2Proof/Laws/Ops.lean ====
section
/-! SUPPORT. One lemma per shared operation: everything it can do when it answers a next state. -/

namespace Sys2Proof.Machine

@[simp] theorem andThen_next {α β : Type} (a : α) (f : α → Result β) :
    andThen (.next a) f = f a := rfl

@[simp] theorem andThen_fault {α β : Type} (e : Fault) (f : α → Result β) :
    andThen (.fault e) f = .fault e := rfl

@[simp] theorem andThen_refused {α β : Type} (e : Refusal) (f : α → Result β) :
    andThen (.refused e) f = .refused e := rfl

/-- A sequence completes exactly when both parts do. -/
theorem andThen_next_iff {α β : Type} {r : Result α} {f : α → Result β} {b : β} :
    andThen r f = .next b ↔ ∃ a, r = .next a ∧ f a = .next b := by
  cases r <;> simp [andThen]

theorem escaped_length_le (p : List Byte) : (escaped p).length ≤ 2 * p.length := by
  induction p with
  | nil => simp [escaped]
  | cons b t ih => rw [escaped]; split <;> simp only [List.length_cons] <;> omega

theorem frameEncode_length_le (p : List Byte) : (frameEncode p).length ≤ 2 * p.length + 2 := by
  have := escaped_length_le p
  simp only [frameEncode, List.length_cons, List.length_append, List.length_nil]
  omega

/-- A payload of at most 7 bytes, the longest of R110, is always staged. -/
theorem stage_short {p : List Byte} (h : p.length ≤ 7) (s : State) :
    stage p s = .next (s.withFrame (frameEncode p)) := by
  have := frameEncode_length_le p
  exact if_pos (show (frameEncode p).length ≤ 16 by omega)

theorem stage_next_iff {p : List Byte} {s t : State} :
    stage p s = .next t ↔
      (frameEncode p).length ≤ Config.txBufMax ∧ t = s.withFrame (frameEncode p) := by
  rw [stage]
  split <;> simp_all [eq_comm]

/-- The staged frame is what the buffer holds (R297), and the buffer above it is untouched. -/
theorem withFrame_read {f : List Byte} {s : State} (hf : f.length ≤ Config.txBufMax)
    (hw : s.tx.buf.wf Config.txBufMax = true) :
    (∀ a (h : a < f.length), (s.withFrame f).tx.buf.read a = f[a]) ∧
    (∀ a, f.length ≤ a → (s.withFrame f).tx.buf.read a = s.tx.buf.read a) ∧
    (s.withFrame f).tx.buf.wf Config.txBufMax = true := by
  refine ⟨fun a h => ?_, fun a h => ?_, ?_⟩
  · have := Memory.read_writeAll_inside f s.tx.buf 0 a hw (by omega) h
    simpa using this
  · exact Memory.read_writeAll_outside f s.tx.buf 0 a (by omega)
  · exact Memory.writeAll_wf f s.tx.buf 0 hw (by omega)

@[simp] theorem whenIdle_idle (run : State → Result State) {s : State} (h : s.ss.sess = .idle) :
    whenIdle run s = run s.ackRx := by simp [whenIdle, h]

theorem whenIdle_armed (run : State → Result State) {s : State} (h : s.ss.sess.armed = true) :
    whenIdle run s = .next s.ackRx := by
  revert h; unfold whenIdle; cases s.ss.sess <;> simp [Session.armed]

@[simp] theorem whenIdle_sleep (run : State → Result State) {s : State} (h : s.ss.sess = .sleep) :
    whenIdle run s = .next s := by simp [whenIdle, h]

/-- A gated command completes in one of three ways (R260). -/
theorem whenIdle_next {run : State → Result State} {s t : State} (h : whenIdle run s = .next t) :
    (s.ss.sess = .idle ∧ run s.ackRx = .next t) ∨
    (s.ss.sess.armed = true ∧ t = s.ackRx) ∨ (s.ss.sess = .sleep ∧ t = s) := by
  unfold whenIdle at h
  split at h <;> simp_all [Session.armed]

theorem msSetup_next_iff {n : Nat} {s t : State} :
    msSetup n s = .next t ↔ (1 ≤ n ∧ n ≤ Config.maxWindow) ∧
      t = { s with ms := { len := BitVec.ofNat 6 n, sum := 0, idx := 0
                           buf := s.ms.buf.clear Config.maxWindow } } := by
  rw [msSetup]
  split <;> simp_all [eq_comm]

theorem msRun_next_iff {x : Bool} {s t : State} :
    msRun x s = .next t ↔ (1 ≤ s.ms.len.toNat ∧ s.ms.len.toNat ≤ Config.maxWindow) ∧
      t = { s with ms := { s.ms with
        idx := BitVec.ofNat 5 (nextIndex s.ms)
        sum := s.ms.sum + (BitVec.ofBool x).setWidth 6
                 - (s.ms.buf.read (nextIndex s.ms)).setWidth 6
        buf := s.ms.buf.write (nextIndex s.ms) (BitVec.ofBool x) } } := by
  rw [msRun]
  split <;> simp_all [eq_comm]

/-- `MS_Run` indexes inside its window (R83). -/
theorem nextIndex_lt {m : MovSum} (h : 1 ≤ m.len.toNat) : nextIndex m < m.len.toNat :=
  Nat.mod_lt _ h

theorem wheelPhase_unarmed {inp : Inputs} {s : State} (h : s.ss.sess.armed = false) :
    wheelPhase inp s = .next (s, .none) := by simp [wheelPhase, h]

theorem transmitPhase_next_iff {inp : Inputs} {s t : State} :
    transmitPhase inp s = .next t ↔
      (sends inp s = true ∧ s.tx.pos.toNat < Config.txBufMax ∧ t = s.sendByte) ∨
      (sends inp s = false ∧ t = s) := by
  cases hs : sends inp s with
  | false => simp [transmitPhase, hs, @eq_comm _ s t]
  | true =>
    by_cases hp : s.tx.pos.toNat < Config.txBufMax <;>
      simp [transmitPhase, hs, hp, @eq_comm _ s.sendByte t]

/-- A tick that completes is four phases that complete. -/
theorem tickWith_next_iff {inp : Inputs} {s u : State} :
    tickWith inp s = .next u ↔ ∃ t ev a b, wheelPhase inp s = .next (t, ev) ∧
      commandPhase inp t = .next a ∧ sessionPhase inp ev a = .next b ∧
      transmitPhase inp b = .next u := by
  simp only [tickWith, andThen_next_iff, Prod.exists]
  constructor
  · rintro ⟨t, ev, h1, a, h2, b, h3, h4⟩; exact ⟨t, ev, a, b, h1, h2, h3, h4⟩
  · rintro ⟨t, ev, a, b, h1, h2, h3, h4⟩; exact ⟨t, ev, h1, a, h2, b, h3, h4⟩

end Sys2Proof.Machine
end

