-- ==== Sys2Proof/Laws/Messages.lean ====
section
/-! SUPPORT. The message builders of 44_messages, written from their rules, agree with the payload
layouts of the encoder, written from the header table of R110. -/

namespace Sys2Proof.Machine

theorem msgAxle_eq_encode (on off : U32) : msgAxle on off = encode (.msgAxle on off) := rfl
theorem msgAxleErr_eq_encode (off : U32) : msgAxleErr off = encode (.msgAxleErr off) := rfl
theorem msgSetupOk_eq_encode (c : Byte) : msgSetupOk c = encode (.msgSetupOk c) := rfl
theorem msgSetupErr_eq_encode (c : Byte) : msgSetupErr c = encode (.msgSetupErr c) := rfl
theorem msgRepOn_eq_encode (v : Byte) : msgRepOn v = encode (.msgRepOn v) := rfl
theorem msgRepOff_eq_encode (v : Byte) : msgRepOff v = encode (.msgRepOff v) := rfl
theorem msgRepErr_eq_encode (v : Byte) : msgRepErr v = encode (.msgRepErr v) := rfl
theorem msgRepLen_eq_encode (v : Byte) : msgRepLen v = encode (.msgRepLen v) := rfl
theorem msgStart_eq_encode (pid : U16) (ts : U32) :
    msgStart pid ts = encode (.msgStart pid ts) := rfl
theorem msgStop_eq_encode (pid n : U16) : msgStop pid n = encode (.msgStop pid n) := rfl
theorem msgEcho_eq_encode (c : Byte) : msgEcho c = encode (.msgEcho c) := rfl

/-- Each builder's payload fits the staging buffer whatever is escaped (R221). -/
theorem encode_length_le (i : Instr) : (encode i).length ≤ 7 := by
  cases i <;> simp [encode, le16, le32]

end Sys2Proof.Machine
end

