-- ==== Sys2Proof/Laws/PerInstr.lean ====
section
/-! SUPPORT. Per-instruction families: one lemma per constructor of Instr. -/

namespace Sys2Proof.Laws.EncodedLength

/-- A command is one byte (30_encoding R100, R101); a message has the length its header gives
(R110). -/
def Statement (i : Instr) : Prop :=
  (encode i).length = if Machine.isCommand i then 1 else payloadLength ((encode i).headD 0)

theorem echo (c : Byte) : Statement (.echo c) := rfl
theorem setErr (s : Byte) : Statement (.setErr s) := rfl
theorem setOff (v : Byte) : Statement (.setOff v) := rfl
theorem setOn (v : Byte) : Statement (.setOn v) := rfl
theorem setLen (e : Byte) : Statement (.setLen e) := rfl
theorem getLen : Statement .getLen := rfl
theorem getOn : Statement .getOn := rfl
theorem getOff : Statement .getOff := rfl
theorem getErr : Statement .getErr := rfl
theorem invalid (b : Byte) : Statement (.invalid b) := rfl
theorem msgAxle (on off : U32) : Statement (.msgAxle on off) := rfl
theorem msgAxleErr (off : U32) : Statement (.msgAxleErr off) := rfl
theorem msgSetupOk (c : Byte) : Statement (.msgSetupOk c) := rfl
theorem msgSetupErr (c : Byte) : Statement (.msgSetupErr c) := rfl
theorem msgRepOn (v : Byte) : Statement (.msgRepOn v) := rfl
theorem msgRepOff (v : Byte) : Statement (.msgRepOff v) := rfl
theorem msgRepErr (v : Byte) : Statement (.msgRepErr v) := rfl
theorem msgRepLen (v : Byte) : Statement (.msgRepLen v) := rfl
theorem msgStart (pid : U16) (ts : U32) : Statement (.msgStart pid ts) := rfl
theorem msgStop (pid n : U16) : Statement (.msgStop pid n) := rfl
theorem msgEcho (c : Byte) : Statement (.msgEcho c) := rfl

end Sys2Proof.Laws.EncodedLength
end

