-- ==== Sys2Proof/Tests/Slice0.lean ====
section
/-! SUPPORT. Tests whose expected results come from the spec (the rule or vector is named at each), and
for every obligation with hypotheses a witness: a concrete state and operands that meet them all. -/

namespace Sys2Proof.Tests

open Sys2Proof.Machine

/-! ## WellFormed: one ill-formed term per check, refused -/

theorem test_wf_echo : (Instr.echo 0xEF).wellFormed = false := by decide
theorem test_wf_setErr : (Instr.setErr 4).wellFormed = false := by decide
theorem test_wf_setOff : (Instr.setOff 20).wellFormed = false := by decide
theorem test_wf_setOn : (Instr.setOn 20).wellFormed = false := by decide
theorem test_wf_setLen_low : (Instr.setLen 0).wellFormed = false := by decide
theorem test_wf_setLen_high : (Instr.setLen 6).wellFormed = false := by decide
theorem test_wf_invalid : (Instr.invalid 21).wellFormed = false := by decide
theorem test_wf_msgEcho : (Instr.msgEcho 0x10).wellFormed = false := by decide

/-! ## Decode: every constructor from bytes written out from R101, R110 and T39, T40 -/

theorem test_decode_echo :
    decode [0b11110000] = .instr (.echo 0xF0) ∧ decode [0b11111111] = .instr (.echo 0xFF) := by decide
theorem test_decode_setErr :
    decode [0b00111101] = .instr (.setErr 0) ∧ decode [0b01000000] = .instr (.setErr 3) := by decide
theorem test_decode_setOff :
    decode [0b00101000] = .instr (.setOff 0) ∧ decode [0b00111011] = .instr (.setOff 19) := by decide
theorem test_decode_setOn :
    decode [0b00010100] = .instr (.setOn 0) ∧ decode [0b00100111] = .instr (.setOn 19) := by decide
theorem test_decode_setLen :
    decode [0b00001011] = .instr (.setLen 1) ∧ decode [0b00001111] = .instr (.setLen 5) := by decide
theorem test_decode_getLen : decode [0b00000001] = .instr .getLen := by decide
theorem test_decode_getOn : decode [0b00000010] = .instr .getOn := by decide
theorem test_decode_getOff : decode [0b00000011] = .instr .getOff := by decide
theorem test_decode_getErr : decode [0b00000100] = .instr .getErr := by decide
theorem test_decode_invalid :
    decode [0b00000000] = .instr (.invalid 0) ∧ decode [0b00111100] = .instr (.invalid 60) ∧
    decode [0b01000001] = .instr (.invalid 65) ∧ decode [0b11101111] = .instr (.invalid 239) := by
  decide
theorem test_decode_msgAxle : decode [0x01, 0xE8, 0x04, 0, 0, 0] = .instr (.msgAxle 928 16) := by
  decide
theorem test_decode_msgAxleErr : decode [0x02, 0x05, 0, 0, 0] = .instr (.msgAxleErr 20) := by decide
theorem test_decode_msgSetupOk : decode [0x03, 0x15] = .instr (.msgSetupOk 21) := by decide
theorem test_decode_msgSetupErr : decode [0x04, 0x1E] = .instr (.msgSetupErr 30) := by decide
theorem test_decode_msgRepOn : decode [0x05, 0x01] = .instr (.msgRepOn 1) := by decide
theorem test_decode_msgRepOff : decode [0x06, 0x01] = .instr (.msgRepOff 1) := by decide
theorem test_decode_msgRepErr : decode [0x07, 0x03] = .instr (.msgRepErr 3) := by decide
theorem test_decode_msgRepLen : decode [0x08, 0x20] = .instr (.msgRepLen 32) := by decide
theorem test_decode_msgStart :
    decode [0x09, 0x7C, 0x7D, 0x7E, 0, 0, 0] = .instr (.msgStart 0x7D7C 0x7E) := by decide
theorem test_decode_msgStop :
    decode [0x0A, 0xFF, 0xFF, 0x00, 0x01] = .instr (.msgStop 0xFFFF 0x0100) := by decide
theorem test_decode_msgEcho : decode [0xF1, 0xF0] = .instr (.msgEcho 0xF0) := by decide

theorem test_decode_rejects :
    decode [] = .rejected .noBytes ∧
    decode [0x0B, 0x00] = .rejected (.unknownHeader 0x0B) ∧
    decode [0x03, 0x15, 0x00] = .rejected (.payloadLength 0x03) ∧
    decode [0x02, 0, 0, 0, 0x40] = .rejected .offDurationRange ∧
    decode [0xF1, 0xEF] = .rejected (.echoOperand 0xEF) := by decide

theorem test_decode_table_word :
    decodeTableWord 8 0x3E = some (.setErr 1) ∧ decodeTableWord 8 0x01 = some .getLen ∧
    decodeTableWord 16 0x1503 = some (.msgSetupOk 0x15) ∧
    decodeTableWord 16 0x0A = some (.msgStop 0 0) ∧ decodeTableWord 16 0x0B = none := by decide

/-- R112, with a syntax error of each kind. -/
theorem test_assembler :
    assembleNamed "SETLEN" (some 8) = some 13 ∧ assembleNamed "SETON" (some 19) = some 39 ∧
    assembleNamed ".byte" (some 60) = some 60 ∧ assembleNamed "GETERR" none = some 4 ∧
    assembleNamed "SETLEN" (some 6) = none ∧ assembleNamed "ECHO" (some 0xEF) = none ∧
    assembleNamed "SETOFF" (some 20) = none ∧ assembleNamed "SETERR" (some 256) = none := by decide

/-- R113 and program P1, with an operand of R112 that only the configuration makes illegal, then a
syntax error of each operand (log entry 23). -/
theorem test_assembleConfig :
    assembleConfig 8 2 1 1 = some [0x14, 0x28, 0x0D, 0x16, 0x29, 0x3E] ∧
    assembleConfig 2 19 1 3 = some [0x14, 0x28, 0x0B, 0x27, 0x29, 0x40] ∧
    assembleConfig 6 1 1 1 = none ∧ assembleConfig 8 20 1 1 = none ∧
    assembleConfig 8 1 20 1 = none ∧ assembleConfig 8 1 1 4 = none := by decide

/-! ## Commands, from fresh IDLE (T40) and from other configurations (T41) -/

/-- The answer, if there is one. -/
def nextOf {α : Type} (r : Result α) : Option α :=
  match r with
  | .next a => some a
  | .fault _ => none
  | .refused _ => none

/-- The pending frame and the configuration (`sum_len, thr_on, thr_off, thr_err_s`). -/
def reply (r : Result State) : Option (List Byte × Cfg) :=
  (nextOf r).map fun s => (s.tx.buf.readAll 0 s.tx.len.toNat, s.cfg)

/-- Fresh IDLE with another configuration. -/
def configured (c : Cfg) : State := { State.reset with cfg := c }

theorem test_echo : reply (exec (.echo 0xF1) State.reset)
    = some ([0x7C, 0xF1, 0xF1, 0x7D], ⟨4, 1, 1, 3⟩) := by decide
theorem test_setErr : reply (exec (.setErr 2) State.reset)
    = some ([0x7C, 0x03, 0x3F, 0x7D], ⟨4, 1, 1, 2⟩) := by decide
theorem test_setOff : reply (exec (.setOff 15) (configured ⟨32, 1, 1, 3⟩))
    = some ([0x7C, 0x03, 0x37, 0x7D], ⟨32, 1, 15, 3⟩) := by decide
theorem test_setOff_refused : reply (exec (.setOff 16) (configured ⟨32, 1, 1, 3⟩))
    = some ([0x7C, 0x04, 0x38, 0x7D], ⟨32, 1, 1, 3⟩) := by decide
theorem test_setOn : reply (exec (.setOn 15) (configured ⟨32, 1, 1, 3⟩))
    = some ([0x7C, 0x03, 0x23, 0x7D], ⟨32, 15, 1, 3⟩) := by decide
theorem test_setOn_refused : reply (exec (.setOn 1) (configured ⟨2, 0, 0, 3⟩))
    = some ([0x7C, 0x04, 0x15, 0x7D], ⟨2, 0, 0, 3⟩) := by decide
theorem test_setLen : reply (exec (.setLen 2) (configured ⟨32, 1, 1, 3⟩))
    = some ([0x7C, 0x03, 0x0C, 0x7D], ⟨4, 1, 1, 3⟩) := by decide
theorem test_setLen_refused : reply (exec (.setLen 4) (configured ⟨32, 15, 1, 3⟩))
    = some ([0x7C, 0x04, 0x0E, 0x7D], ⟨32, 15, 1, 3⟩) := by decide
theorem test_getLen : reply (exec .getLen (configured ⟨32, 15, 7, 3⟩))
    = some ([0x7C, 0x08, 0x20, 0x7D], ⟨32, 15, 7, 3⟩) := by decide
theorem test_getOn : reply (exec .getOn (configured ⟨32, 15, 7, 3⟩))
    = some ([0x7C, 0x05, 0x0F, 0x7D], ⟨32, 15, 7, 3⟩) := by decide
theorem test_getOff : reply (exec .getOff (configured ⟨32, 15, 7, 3⟩))
    = some ([0x7C, 0x06, 0x07, 0x7D], ⟨32, 15, 7, 3⟩) := by decide
theorem test_getErr : reply (exec .getErr State.reset)
    = some ([0x7C, 0x07, 0x03, 0x7D], ⟨4, 1, 1, 3⟩) := by decide
theorem test_invalid : reply (exec (.invalid 124) State.reset)
    = some ([0x7C, 0x04, 0x7E, 0x7C, 0x7D], ⟨4, 1, 1, 3⟩) := by decide

/-! ## Messages (T39) -/

/-- The frame a message leaves pending from reset. -/
def frameOf (i : Instr) : Option (List Byte) := (reply (exec i State.reset)).map Prod.fst

theorem test_msgAxle : frameOf (.msgAxle 4 0xFFFFFFFF)
    = some [0x7C, 0x01, 0x01, 0xFF, 0xFF, 0xFF, 0x3F, 0x7D] := by decide
theorem test_msgAxle_truncated : frameOf (.msgAxle 4000 16)
    = some [0x7C, 0x01, 0xE8, 0x04, 0, 0, 0, 0x7D] := by decide
theorem test_msgAxleErr : frameOf (.msgAxleErr 0x1F0)
    = some [0x7C, 0x02, 0x7E, 0x7C, 0, 0, 0, 0x7D] := by decide
theorem test_msgSetupOk : frameOf (.msgSetupOk 21) = some [0x7C, 0x03, 0x15, 0x7D] := by decide
theorem test_msgSetupErr : frameOf (.msgSetupErr 0x7D)
    = some [0x7C, 0x04, 0x7E, 0x7D, 0x7D] := by decide
theorem test_msgRepOn : frameOf (.msgRepOn 1) = some [0x7C, 0x05, 0x01, 0x7D] := by decide
theorem test_msgRepOff : frameOf (.msgRepOff 1) = some [0x7C, 0x06, 0x01, 0x7D] := by decide
theorem test_msgRepErr : frameOf (.msgRepErr 3) = some [0x7C, 0x07, 0x03, 0x7D] := by decide
theorem test_msgRepLen : frameOf (.msgRepLen 32) = some [0x7C, 0x08, 0x20, 0x7D] := by decide
theorem test_msgStart : frameOf (.msgStart 0x7D7C 0x7E)
    = some [0x7C, 0x09, 0x7E, 0x7C, 0x7E, 0x7D, 0x7E, 0x7E, 0, 0, 0, 0x7D] := by decide
theorem test_msgStop : frameOf (.msgStop 0xFFFF 0x0100)
    = some [0x7C, 0x0A, 0xFF, 0xFF, 0x00, 0x01, 0x7D] := by decide
theorem test_msgEcho : frameOf (.msgEcho 0xF0) = some [0x7C, 0xF1, 0xF0, 0x7D] := by decide

/-! ## Filter, wheel, session, codec, step -/

/-- T1, run 5: the element at index 1 is evicted. -/
def afterRun4 : State :=
  { State.reset with ms := { len := 4, sum := 3, idx := 0, buf := [(0, 1), (1, 1), (2, 1)] } }

theorem test_msRun : (nextOf (msRun true afterRun4)).map State.ms
    = some { len := 4, sum := 3, idx := 1, buf := [(0, 1), (1, 1), (2, 1)] } := by decide
theorem test_msSetup_refused :
    nextOf (msSetup 0 State.reset) = none ∧ nextOf (msSetup 33 State.reset) = none := by decide

/-- T30. -/
theorem test_midpoint :
    Machine.midpoint 3 54 = 28 ∧ Machine.midpoint 1023 1025 = 1024 ∧
    Machine.midpoint 0xFFFFFFF0 0x10 = 0 ∧
    Machine.midpoint 0xFFFFFFFF 0xFFFFFFFF = 0xFFFFFFFF := by decide

/-- T36, the longest frame. -/
theorem test_frameEncode : frameEncode [0x09, 0x7C, 0x7D, 0x7E, 0x7C, 0x7D, 0x7E]
    = [0x7C, 0x09, 0x7E, 0x7C, 0x7E, 0x7D, 0x7E, 0x7E, 0x7E, 0x7C, 0x7E, 0x7D, 0x7E, 0x7E, 0x7D] := by
  decide

/-- R230. -/
theorem test_decFeed :
    (nextOf (decFeed [0x7C, 0x01, 0x7E, 0x7C, 0x7E, 0x7D, 0x7E, 0x7E, 0x00, 0x7D] State.reset)).map
      Prod.snd = some [[0x01, 0x7C, 0x7D, 0x7E, 0x00]] := by decide

/-- R303: the first step of the worked example. -/
theorem test_step : (nextOf (step (State.reset.withFetchWord 8 21))).map
      (fun s => (s.cfg.thrOn, s.out.rxAck, s.out.tx, s.tx.pos))
    = some (1, true, some 0x7C, 1) := by decide

/-! ## States for the witnesses -/

/-- A build with the debounce front end. -/
def debouncing : Params := { Params.reference with frontend := .debounce }

/-- Inputs with nothing requested and the transmitter ready. -/
def quiet : Inputs := defaultInputs Params.reference 0

/-- An armed state of either build: session `ss`, wheel `w`, window 4 holding `samples`. -/
def armedState (p : Params) (v : Session) (w : Wheel) (sum : BitVec 6) (samples : Memory 1) : State :=
  { State.resetWith p with
    ms := { len := 4, sum := sum, idx := 0, buf := samples }
    wh := { (State.resetWith p).wh with wheel := w }
    ss := { (State.resetWith p).ss with sess := v } }

/-- The state with `i` scheduled for the next step. -/
def fed (i : Inputs) (s : State) : State := { s with host := { s.host with stim := [i] } }

/-- MOVSUM, in the second axle of a pass-by, one sample before it ends. -/
def onAxle : State :=
  fed { quiet with armIn := true }
    { armedState Params.reference .passbyOn .on 1 [(1, 1)] with
      ind := { axle := true, error := false }
      ss := { State.reset.ss with sess := .passbyOn, axleCount := 1, passbyCount := 1
                                  pbStarted := true } }

/-- DEBOUNCE, in PRE_OFF with one count left, in the first axle of a pass-by. -/
def preOffAxle : State :=
  let s := armedState debouncing .passbyOn .preOff 0 []
  fed { quiet with armIn := true }
    { s with ind := { axle := true, error := false }, wh := { s.wh with dcnt := 1, onDur := 9 } }

/-- IDLE with byte `b` offered. -/
def offering (b : Byte) : State := fed { quiet with rxValid := true, rxByte := b } State.reset

/-- The session set to `v`. -/
def inSession (v : Session) : State := State.reset.setSession v

/-! ## Witnesses: one per obligation with hypotheses, one per clause at a boundary -/

theorem witness_PowerOnRegisterValues : State.reset = State.resetWith Params.reference := rfl

theorem witness_PowerOnMeetsBlockInvariant :
    ParamsOk Params.reference ∧ ParamsOk debouncing ∧
    ParamsOk { Params.reference with defSumLen := 2, defThrOn := 0, defThrOff := 0 } ∧
    ParamsOk { Params.reference with defSumLen := 32, defThrOn := 15, defThrOff := 15 } := by
  refine ⟨?_, ?_, ?_, ?_⟩ <;> decide

theorem onAxle_inv : Inv onAxle := by
  refine ⟨?_, ?_, ?_, ?_, ?_, ?_, ?_, ?_, ?_, ?_⟩ <;> decide

theorem preOffAxle_inv : Inv preOffAxle := by
  refine ⟨?_, ?_, ?_, ?_, ?_, ?_, ?_, ?_, ?_, ?_⟩ <;> decide

/-- The invariant holds at reset. -/
theorem reset_inv : Inv State.reset := by
  refine ⟨?_, ?_, ?_, ?_, ?_, ?_, ?_, ?_, ?_, ?_⟩ <;> decide

theorem witness_StepKeepsBlockInvariant :
    (Inv onAxle ∧ ∃ t, step onAxle = .next t) ∧ (Inv preOffAxle ∧ ∃ t, step preOffAxle = .next t) :=
  ⟨⟨onAxle_inv, _, rfl⟩, ⟨preOffAxle_inv, _, rfl⟩⟩

theorem witness_NoStopUnderBlockInvariant : Inv onAxle ∧ Inv preOffAxle ∧ Inv State.reset :=
  ⟨onAxle_inv, preOffAxle_inv, reset_inv⟩

theorem witness_StepRunsOfferedInstruction :
    (offering 13).inputs.rxValid = true ∧ decode [(offering 13).inputs.rxByte] = .instr (.setLen 3) ∧
    (offering 13).ss.sess = .idle ∧ onAxle.inputs.rxValid = false := by decide

theorem witness_CommandClassRanges :
    decodeCommand 240 = .echo 240 ∧ decodeCommand 255 = .echo 255 ∧
    decodeCommand 61 = .setErr 0 ∧ decodeCommand 64 = .setErr 3 ∧
    decodeCommand 40 = .setOff 0 ∧ decodeCommand 59 = .setOff 19 ∧
    decodeCommand 20 = .setOn 0 ∧ decodeCommand 39 = .setOn 19 ∧
    decodeCommand 11 = .setLen 1 ∧ decodeCommand 15 = .setLen 5 ∧
    decodeCommand 1 = .getLen ∧ decodeCommand 2 = .getOn ∧ decodeCommand 3 = .getOff ∧
    decodeCommand 4 = .getErr ∧ decodeCommand 0 = .invalid 0 ∧ decodeCommand 5 = .invalid 5 ∧
    decodeCommand 10 = .invalid 10 ∧ decodeCommand 16 = .invalid 16 ∧
    decodeCommand 19 = .invalid 19 ∧ decodeCommand 60 = .invalid 60 ∧
    decodeCommand 65 = .invalid 65 ∧ decodeCommand 239 = .invalid 239 := by decide

theorem witness_DecodeOfEncode :
    (Instr.echo 0xF0).wellFormed = true ∧ (Instr.setOn 19).wellFormed = true ∧
    (Instr.setLen 5).wellFormed = true ∧ (Instr.invalid 239).wellFormed = true ∧
    (Instr.msgAxle 1020 0xFFFFFFFC).wellFormed = true ∧ (1020 : U32).toNat < 1024 ∧
    (1020 : U32).toNat % 4 = 0 ∧ (0xFFFFFFFC : U32).toNat % 4 = 0 ∧
    decode (encode (.msgAxle 1020 0xFFFFFFFC)) = .instr (.msgAxle 1020 0xFFFFFFFC) ∧
    decode (encode (.msgAxleErr 0xFFFFFFFC)) = .instr (.msgAxleErr 0xFFFFFFFC) := by decide

theorem witness_EncodeOfDecode :
    decode [0xFF] = .instr (.echo 0xFF) ∧
    decode [0x09, 0xFF, 0xFF, 0x01, 0x02, 0x03, 0x04] = .instr (.msgStart 0xFFFF 0x04030201) := by
  decide

theorem witness_EchoCommandReplies :
    State.reset.ss.sess = .idle ∧ 240 ≤ (0xF0 : Byte).toNat := by decide

theorem witness_SetErrCommandWrites :
    State.reset.ss.sess = .idle ∧ (3 : Byte).toNat ≤ 3 := by decide

theorem witness_SetOffCommandValidates :
    State.reset.ss.sess = .idle ∧ (19 : Byte).toNat ≤ 19 ∧
    (1 : Byte).toNat < State.reset.cfg.sumLen.toNat / 2 ∧
    ¬ (19 : Byte).toNat < State.reset.cfg.sumLen.toNat / 2 := by decide

theorem witness_SetOnCommandValidates :
    State.reset.ss.sess = .idle ∧ (19 : Byte).toNat ≤ 19 ∧
    (1 : Byte).toNat < State.reset.cfg.sumLen.toNat / 2 ∧
    ¬ (2 : Byte).toNat < State.reset.cfg.sumLen.toNat / 2 := by decide

theorem witness_SetLenCommandValidates :
    State.reset.ss.sess = .idle ∧ 1 ≤ (1 : Byte).toNat ∧ (1 : Byte).toNat ≤ 5 ∧
    1 ≤ (5 : Byte).toNat ∧ (5 : Byte).toNat ≤ 5 ∧
    ¬ (State.reset.cfg.thrOn.toNat < 2 ^ (1 : Byte).toNat / 2) ∧
    State.reset.cfg.thrOn.toNat < 2 ^ (5 : Byte).toNat / 2 ∧
    State.reset.cfg.thrOff.toNat < 2 ^ (5 : Byte).toNat / 2 := by decide

theorem witness_GetCommandsReport : State.reset.ss.sess = .idle := rfl

theorem witness_InvalidByteAnswersSetupError :
    State.reset.ss.sess = .idle ∧ (0 : Byte).toNat = 0 ∧
    (5 ≤ (10 : Byte).toNat ∧ (10 : Byte).toNat ≤ 10) ∧
    (16 ≤ (19 : Byte).toNat ∧ (19 : Byte).toNat ≤ 19) ∧ (60 : Byte).toNat = 60 ∧
    (65 ≤ (239 : Byte).toNat ∧ (239 : Byte).toNat ≤ 239) := by decide

theorem witness_CommandsOutsideIdle :
    isCommand (.setOn 0) = true ∧ (inSession .rdy).ss.sess.armed = true ∧
    (inSession .sleep).ss.sess = .sleep := by decide

theorem witness_CommandPhaseTable :
    State.reset.out.rxAck = false ∧ quiet.rxValid = false ∧ (offering 21).inputs.rxValid = true ∧
    State.reset.ss.sess = .idle ∧ (inSession .rdy).ss.sess = .rdy ∧
    (inSession .error).ss.sess = .error ∧ (inSession .sleep).ss.sess = .sleep ∧
    (inSession .rdy).out.rxAck = false ∧ (inSession .error).out.rxAck = false ∧
    (inSession .sleep).out.rxAck = false := by decide

theorem witness_CommandFrame :
    isCommand (.setLen 3) = true ∧ (Instr.setLen 3).wellFormed = true ∧
    State.reset.ss.sess = .idle ∧ ∃ t, exec (.setLen 3) State.reset = .next t :=
  ⟨rfl, by decide, rfl, _, rfl⟩

theorem witness_MessageFrame :
    isCommand (.msgStop 1 2) = false ∧ ∃ t, exec (.msgStop 1 2) State.reset = .next t :=
  ⟨rfl, _, rfl⟩

/-- Seven framing bytes: a frame of 16 bytes. -/
def escapes7 : List Byte := List.replicate 7 0x7E

theorem witness_FrameLengthAndFit :
    escapes7.length ≤ 7 ∧ (frameEncode escapes7).length = 16 := by decide

theorem witness_FrameLengthBounds :
    (frameEncode (encode (.msgEcho 0xFF))).length = 4 ∧
    (frameEncode (encode (.msgSetupErr 0x7E))).length = 5 ∧
    (frameEncode (encode (.msgStop 0x7D7D 0x7E7E))).length = 11 ∧
    (frameEncode (encode (.msgAxleErr 0))).length = 7 ∧
    (frameEncode (encode (.msgAxle 0 0))).length = 8 ∧
    (frameEncode (encode (.msgStart 0x7C7C 0x7D7D7D7D))).length = 15 ∧
    isCommand (.msgStart 0x7C7C 0x7D7D7D7D) = false := by decide

theorem witness_StageReplacesPending :
    escapes7.length ≤ 7 ∧ State.reset.tx.buf.wf Config.txBufMax = true := by decide

/-- IDLE with the last byte of a 16-byte frame to send. -/
def lastByte : State := { State.reset with tx := { buf := [(15, 0x7D)], len := 16, pos := 15 } }

theorem witness_TransmitPhaseSendsOneByte :
    lastByte.ss.sess ≠ .sleep ∧ lastByte.tx.len ≠ 0 ∧ quiet.txReady = true ∧
    lastByte.tx.pos.toNat < lastByte.tx.len.toNat ∧ lastByte.tx.len.toNat ≤ 16 ∧
    (inSession .sleep).ss.sess = .sleep ∧ State.reset.tx.len = 0 ∧
    { quiet with txReady := false }.txReady = false := by decide

theorem witness_StagedFrameLeavesWhole :
    escapes7.length ≤ 7 ∧ State.reset.tx.buf.wf Config.txBufMax = true ∧
    State.reset.ss.sess ≠ .sleep ∧ quiet.txReady = true := by decide

/-- Decoder registers: mode `m`, `n` bytes received. -/
def decoding (m : DecoderMode) (n : BitVec 5) : State :=
  { State.reset with dec := { st := m, buf := [], len := n } }

theorem witness_DecoderRecoversEveryPayload :
    (List.replicate 16 (0x7E : Byte)).length ≤ 16 ∧ State.reset.dec.st = .hunt ∧
    State.reset.dec.len.toNat ≤ 16 ∧ State.reset.dec.buf.wf Config.decMax = true ∧
    (decoding .body 16).dec.st = .body ∧ (decoding .body 16).dec.len.toNat ≤ 16 ∧
    (decoding .body 16).dec.buf.wf Config.decMax = true := by decide

theorem witness_DecoderStepTable :
    (decoding .hunt 16).dec.len.toNat ≤ 16 ∧ (decoding .hunt 0).dec.st = .hunt ∧
    (decoding .esc 15).dec.st = .esc ∧ (decoding .esc 15).dec.len.toNat < 16 ∧
    (decoding .esc 16).dec.len.toNat = 16 ∧ (decoding .body 15).dec.st = .body ∧
    (decoding .body 15).dec.len.toNat < 16 ∧ (decoding .body 16).dec.len.toNat = 16 ∧
    ((0x7B : Byte) ≠ 0x7C ∧ (0x7B : Byte) ≠ 0x7D ∧ (0x7B : Byte) ≠ 0x7E) := by decide

theorem witness_DecoderStepKeepsDecoderSound :
    DecoderInv State.reset ∧ DecoderInv (decoding .esc 16) := by
  refine ⟨?_, ?_⟩ <;> decide

theorem witness_SetupClearsFilter :
    afterRun4.ms.buf.wf Config.maxWindow = true ∧ State.reset.ms.buf.wf Config.maxWindow = true ∧
    (1 ≤ 1 ∧ 1 ≤ 32) ∧ (1 ≤ 32 ∧ 32 ≤ 32) ∧ 32 < 33 := by decide

/-- A window of 32 ones, its index at the end. -/
def fullWindow : State :=
  { State.reset with
    ms := { len := 32, sum := 32, idx := 31, buf := Memory.writeAll [] 0 (List.replicate 32 1) } }

theorem witness_RunningSumUpdate :
    (1 ≤ afterRun4.ms.len.toNat ∧ afterRun4.ms.len.toNat ≤ 32 ∧
      afterRun4.ms.idx.toNat < afterRun4.ms.len.toNat ∧
      afterRun4.ms.sum.toNat = bufferSum afterRun4.ms.buf afterRun4.ms.len.toNat ∧
      afterRun4.ms.buf.wf Config.maxWindow = true) ∧
    (fullWindow.ms.len.toNat ≤ 32 ∧ fullWindow.ms.idx.toNat < fullWindow.ms.len.toNat ∧
      fullWindow.ms.sum.toNat = bufferSum fullWindow.ms.buf fullWindow.ms.len.toNat ∧
      fullWindow.ms.buf.wf Config.maxWindow = true) := by decide

theorem witness_RunningSumIsWindowSum :
    1 ≤ 32 ∧ 32 ≤ 32 ∧ fullWindow.ms.buf.wf Config.maxWindow = true := by decide

theorem witness_WheelPhaseFrame :
    (∃ r, wheelPhase quiet onAxle = .next r ∧ onAxle.ss.sess.armed = true ∧
      onAxle.par.frontend = .movsum) ∧
    (∃ r, wheelPhase quiet preOffAxle = .next r ∧ preOffAxle.ss.sess.armed = true ∧
      preOffAxle.par.frontend = .debounce) ∧
    (∃ r, wheelPhase quiet State.reset = .next r ∧ State.reset.ss.sess.armed = false) :=
  ⟨⟨_, rfl, rfl, rfl⟩, ⟨_, rfl, rfl, rfl⟩, ⟨_, rfl, rfl⟩⟩

/-- MOVSUM, wheel OFF with three ones in the window: one more commits, none stays. -/
def offThree : State := armedState Params.reference .rdy .off 3 [(0, 1), (2, 1), (3, 1)]

theorem witness_MovsumOffTransitions :
    (∃ m, msRun true offThree = .next m ∧ m.wh.wheel = .off ∧
      m.ms.len.toNat < m.ms.sum.toNat + m.cfg.thrOn.toNat) ∧
    (∃ m, msRun false offThree = .next m ∧ m.wh.wheel = .off ∧
      ¬ m.ms.len.toNat < m.ms.sum.toNat + m.cfg.thrOn.toNat) :=
  ⟨⟨_, rfl, rfl, by decide⟩, ⟨_, rfl, rfl, by decide⟩⟩

/-- ON with the error threshold at 0, as in T13 (one more tick exceeds it). -/
def onNoLimit : State := { onAxle with cfg := { onAxle.cfg with thrErrS := 0 } }

theorem witness_MovsumOnTransitions :
    (∃ m, msRun false onAxle = .next m ∧ m.wh.wheel = .on ∧ m.ms.sum.toNat < m.cfg.thrOff.toNat) ∧
    (∃ m, msRun true onAxle = .next m ∧ m.wh.wheel = .on ∧ ¬ m.ms.sum.toNat < m.cfg.thrOff.toNat ∧
      ¬ m.cfg.thrErrS.toNat * m.par.tickHz < (m.wh.onDur + 1).toNat) ∧
    (∃ m, msRun true onNoLimit = .next m ∧ m.wh.wheel = .on ∧
      ¬ m.ms.sum.toNat < m.cfg.thrOff.toNat ∧
      m.cfg.thrErrS.toNat * m.par.tickHz < (m.wh.onDur + 1).toNat) :=
  ⟨⟨_, rfl, rfl, by decide⟩, ⟨_, rfl, rfl, by decide, by decide⟩, ⟨_, rfl, rfl, by decide, by decide⟩⟩

/-- MOVSUM, wheel ON_ERROR with one 1 left in the window, at the next index. -/
def errorOne : State := armedState Params.reference .error .onError 1 [(1, 1)]

theorem witness_MovsumRecovery :
    (∃ m, msRun false errorOne = .next m ∧ m.wh.wheel = .onError ∧ m.ms.sum = 0) ∧
    (∃ m, msRun true errorOne = .next m ∧ m.wh.wheel = .onError ∧ m.ms.sum ≠ 0) :=
  ⟨⟨_, rfl, rfl, by decide⟩, ⟨_, rfl, rfl, by decide⟩⟩

/-- DEBOUNCE: wheel `w`, edge register `e`, timer `n`. -/
def debounced (w : Wheel) (e : Bool) (n : U32) : State :=
  { State.resetWith debouncing with
    wh := { State.reset.wh with wheel := w, prevIn := e, dcnt := n, stopCnt := 5999 } }

theorem witness_DebounceAbsentTransitions :
    ((debounced .off false 0).wh.wheel = .off ∧ { quiet with cellIn := true }.cellIn = true ∧
      (debounced .off false 0).wh.prevIn = false) ∧
    (quiet.cellIn = (debounced .off false 0).armStop.wh.prevIn ∧
      (debounced .off false 0).armStop.wh.stopArmed = true) ∧
    (quiet.cellIn = (debounced .off false 0).wh.prevIn ∧
      (debounced .off false 0).wh.stopArmed = false) ∧
    ((debounced .preOn true 6).wh.wheel = .preOn ∧ quiet.cellIn = false ∧
      (debounced .preOn true 6).wh.prevIn = true) ∧
    ((debounced .preOn true 1).wh.wheel = .preOn ∧ (debounced .preOn true 1).wh.dcnt = 1) ∧
    (debounced .preOn true 6).wh.dcnt ≠ 1 := by decide

/-- The two outcomes of the armed stop timer (R167): 6000 ticks do not stop, 6001 do. -/
theorem witness_stop_timer_boundary :
    ((debounced .off false 0).wh.stopCnt + 1).toNat
      ≤ 3000 * (debounced .off false 0).par.tickHz / 1000 ∧
    ¬ ((6000 : U32) + 1).toNat ≤ 3000 * (debounced .off false 0).par.tickHz / 1000 := by decide

theorem witness_DebouncePresentTransitions :
    ((debounced .on true 0).wh.wheel = .on ∧ quiet.cellIn = false ∧
      (debounced .on true 0).wh.prevIn = true) ∧
    ((debounced .on true 0).wh.wheel = .on ∧ { quiet with cellIn := true }.cellIn = true) ∧
    ((debounced .preOff false 6).wh.wheel = .preOff ∧
      (debounced .preOff false 6).wh.prevIn = false ∧ (debounced .preOff false 6).wh.dcnt ≠ 1) ∧
    ((debounced .preOff false 1).wh.wheel = .preOff ∧
      (debounced .preOff false 1).wh.prevIn = false ∧ (debounced .preOff false 1).wh.dcnt = 1) := by
  decide

theorem witness_DebounceRecovery :
    (debounced .onError true 0).wh.wheel = .onError ∧
    (quiet.cellIn = false ∧ (debounced .onError true 0).wh.prevIn = true) ∧
    ({ quiet with cellIn := true }.cellIn = true ∧ (debounced .onError false 3).wh.prevIn = false) ∧
    (quiet.cellIn = (debounced .onError false 0).wh.prevIn ∧
      (debounced .onError false 0).wh.dcnt = 0) ∧
    (quiet.cellIn = (debounced .onError false 1).wh.prevIn ∧
      (debounced .onError false 1).wh.dcnt = 1) ∧
    (quiet.cellIn = (debounced .onError false 2).wh.prevIn ∧
      (debounced .onError false 2).wh.dcnt ≠ 0 ∧ (debounced .onError false 2).wh.dcnt ≠ 1) := by
  decide

theorem witness_ArmingStartsSession :
    State.reset.ss.sess = .idle ∧ onAxle.inputs.armIn = true ∧ 1 ≤ State.reset.cfg.sumLen.toNat ∧
    (configured ⟨32, 15, 15, 3⟩).cfg.sumLen.toNat ≤ 32 ∧ State.reset.cfg.sumLen.toNat ≤ 32 ∧
    State.reset.ms.buf.wf Config.maxWindow = true := by decide

theorem witness_IdleAndSleepTransitions :
    State.reset.ss.sess = .idle ∧ quiet.armIn = false ∧ (inSession .sleep).ss.sess = .sleep := by
  decide

theorem witness_DisarmEndsSession :
    onAxle.ss.sess = .passbyOn ∧ onAxle.ss.pbStarted = true ∧ preOffAxle.ss.pbStarted = false ∧
    (inSession .rdy).ss.sess = .rdy ∧ (inSession .passbyOff).ss.sess = .passbyOff ∧
    (inSession .error).ss.sess = .error ∧ quiet.armIn = false := by decide

theorem witness_AxleCompletionReports :
    onAxle.ss.sess = .passbyOn ∧ onAxle.inputs.armIn = true ∧
    (28 : U32) = 3 + BitVec.ofNat 32 ((54 - 3 : U32).toNat / 2) ∧ onAxle.ss.pbStarted = true ∧
    preOffAxle.ss.sess = .passbyOn ∧ preOffAxle.ss.pbStarted = false := by decide

theorem witness_SensorErrorAndRecovery :
    onAxle.inputs.armIn = true ∧ onAxle.ss.sess = .passbyOn ∧ errorOne.ss.sess = .error := by decide

/-- MOVSUM, between two axles of a pass-by. -/
def betweenAxles : State :=
  { armedState Params.reference .passbyOff .off 0 [] with
    ss := { State.reset.ss with sess := .passbyOff, axleCount := 1, passbyCount := 1
                                pbStarted := true } }

theorem witness_PassbyTransitions :
    onAxle.inputs.armIn = true ∧ offThree.ss.sess = .rdy ∧ betweenAxles.ss.sess = .passbyOff ∧
    Inv betweenAxles := by
  refine ⟨rfl, rfl, rfl, ?_, ?_, ?_, ?_, ?_, ?_, ?_, ?_, ?_, ?_⟩ <;> decide

/-- The four hypotheses of UnlistedEventsAreSkipped on a session and an event. -/
def Unlisted (v : Session) (ev : WheelEvent) : Prop :=
  ¬ (v = .rdy ∧ ev = .wOn) ∧
  ¬ (v = .passbyOn ∧ ((∃ on off ton toff, ev = .wAxle on off ton toff) ∨ ∃ off, ev = .wErr off)) ∧
  ¬ (v = .passbyOff ∧ (ev = .wOn ∨ ev = .wStop)) ∧ ¬ (v = .error ∧ ev = .wRec)

/-- Every kind of event, in a session that skips it, W_STOP in all three of R202 and the pairs it
calls unreachable among them. -/
theorem witness_UnlistedEventsAreSkipped :
    (onAxle.inputs.armIn = true ∧ offThree.ss.sess.armed = true ∧ onAxle.ss.sess.armed = true ∧
      betweenAxles.ss.sess.armed = true ∧ errorOne.ss.sess.armed = true) ∧
    (Unlisted offThree.ss.sess .none ∧ Unlisted offThree.ss.sess .wStop ∧
      Unlisted offThree.ss.sess (.wAxle 4 4 2 4) ∧ Unlisted offThree.ss.sess (.wErr 4) ∧
      Unlisted offThree.ss.sess .wRec) ∧
    (Unlisted onAxle.ss.sess .none ∧ Unlisted onAxle.ss.sess .wStop ∧
      Unlisted onAxle.ss.sess .wOn ∧ Unlisted onAxle.ss.sess .wRec) ∧
    (Unlisted betweenAxles.ss.sess .none ∧ Unlisted betweenAxles.ss.sess (.wAxle 4 4 2 4) ∧
      Unlisted betweenAxles.ss.sess (.wErr 4) ∧ Unlisted betweenAxles.ss.sess .wRec) ∧
    (Unlisted errorOne.ss.sess .none ∧ Unlisted errorOne.ss.sess .wStop ∧
      Unlisted errorOne.ss.sess .wOn ∧ Unlisted errorOne.ss.sess (.wAxle 4 4 2 4) ∧
      Unlisted errorOne.ss.sess (.wErr 4)) := by
  simp [Unlisted, offThree, onAxle, betweenAxles, errorOne, armedState, fed, State.inputs,
    Session.armed]

theorem witness_MidpointIsFloorMean :
    (3 : U32).toNat ≤ (3 : U32).toNat ∧ (0x10 : U32).toNat < (0xFFFFFFF0 : U32).toNat := by decide

theorem witness_InstructionsKeepConfigurationLegal :
    (Instr.setLen 1).wellFormed = true ∧ ConfigInv (configured ⟨2, 0, 0, 3⟩) ∧
    ∃ t, exec (.setLen 1) (configured ⟨2, 0, 0, 3⟩) = .next t :=
  ⟨by decide, by decide, _, rfl⟩

theorem witness_ConfigurationChangesOnlyInIdle :
    (∃ t, step onAxle = .next t) ∧ ¬ (onAxle.ss.sess = .idle ∧ onAxle.inputs.rxValid = true) :=
  ⟨⟨_, rfl⟩, by decide⟩

theorem witness_StepLeavesDecoderAndParameters : ∃ t, step (offering 21) = .next t := ⟨_, rfl⟩

theorem witness_PortsOfAStep :
    (∃ t, step (offering 21) = .next t ∧ t.out.tx ≠ none) ∧
    (∃ t, step onAxle = .next t ∧ t.ss.sess.armed = true) ∧
    (∃ t, step (fed { quiet with sleepIn := true } State.reset) = .next t ∧ t.ss.sess = .sleep) :=
  ⟨⟨_, rfl, by decide⟩, ⟨_, rfl, by decide⟩, ⟨_, rfl, by decide⟩⟩

theorem witness_SleepHoldsEveryRegister :
    (fed { quiet with sleepIn := true } (inSession .sleep)).ss.sess = .sleep ∧
    (fed { quiet with sleepIn := true } (inSession .sleep)).inputs.sleepIn = true := by decide

/-- Fresh IDLE, arming with the byte `b` offered and the transmitter busy. -/
def armingWith (b : Byte) (c : Cfg) : State :=
  fed { quiet with rxValid := true, rxByte := b, armIn := true, txReady := false } (configured c)

theorem witness_CommandBeforeArmingInOneStep :
    ((armingWith 15 ⟨4, 1, 1, 3⟩).ss.sess = .idle ∧
      (armingWith 15 ⟨4, 1, 1, 3⟩).ms.buf.wf Config.maxWindow = true ∧
      (armingWith 15 ⟨4, 1, 1, 3⟩).inputs.rxValid = true ∧
      (armingWith 15 ⟨4, 1, 1, 3⟩).inputs.rxByte = 15 ∧
      (armingWith 15 ⟨4, 1, 1, 3⟩).inputs.armIn = true ∧
      (armingWith 15 ⟨4, 1, 1, 3⟩).inputs.txReady = false ∧
      11 ≤ (15 : Byte).toNat ∧ (15 : Byte).toNat ≤ 15 ∧
      (armingWith 15 ⟨4, 1, 1, 3⟩).cfg.thrOn.toNat < 2 ^ ((15 : Byte).toNat - 10) / 2 ∧
      (armingWith 15 ⟨4, 1, 1, 3⟩).cfg.thrOff.toNat < 2 ^ ((15 : Byte).toNat - 10) / 2) ∧
    (11 ≤ (11 : Byte).toNat ∧
      (armingWith 11 ⟨2, 0, 0, 3⟩).cfg.thrOn.toNat < 2 ^ ((11 : Byte).toNat - 10) / 2) := by decide

theorem witness_ConfigSequenceConfigures :
    State.reset.ss.sess = .idle ∧ ConfigInv State.reset ∧ 1 ≤ (5 : Byte).toNat ∧
    (5 : Byte).toNat ≤ 5 ∧ (15 : Byte).toNat < 2 ^ (5 : Byte).toNat / 2 ∧
    (0 : Byte).toNat < 2 ^ (1 : Byte).toNat / 2 ∧ (3 : Byte).toNat ≤ 3 := by
  refine ⟨?_, ?_, ?_, ?_, ?_, ?_, ?_⟩ <;> decide

end Sys2Proof.Tests
end

/-! PROOFS. What the phases of a step do to the registers of 10_state: the commands. -/

namespace Sys2Proof.Machine

@[simp] theorem thresholdLegal_iff {v n : Byte} :
    thresholdLegal v n = true ↔ v.toNat < n.toNat / 2 := by simp [thresholdLegal]

/-- The configuration part of the invariant, on the registers alone (R34, R36). -/
def Cfg.Legal (c : Cfg) : Prop :=
  legalWindow c.sumLen = true ∧
  thresholdLegal c.thrOn c.sumLen = true ∧ thresholdLegal c.thrOff c.sumLen = true

theorem configInv_iff {s : State} : ConfigInv s ↔ s.cfg.Legal := Iff.rfl

/-- The configuration an executed command leaves (R263 to R267); a message leaves it alone. -/
def configAfter (i : Instr) (c : Cfg) : Cfg :=
  match i with
  | .setErr v => { c with thrErrS := v }
  | .setOff v => if thresholdLegal v c.sumLen then { c with thrOff := v } else c
  | .setOn v => if thresholdLegal v c.sumLen then { c with thrOn := v } else c
  | .setLen e =>
    if thresholdLegal c.thrOn (windowOfExponent e)
        && thresholdLegal c.thrOff (windowOfExponent e) then
      { c with sumLen := windowOfExponent e }
    else c
  | _ => c

theorem windowOfExponent_toNat {e : Byte} (h : e.toNat ≤ 5) :
    (windowOfExponent e).toNat = 2 ^ e.toNat := by
  simp only [windowOfExponent]
  generalize e.toNat = n at h
  interval_cases n <;> rfl

theorem legalWindow_windowOfExponent {e : Byte} (h1 : 1 ≤ e.toNat) (h5 : e.toNat ≤ 5) :
    legalWindow (windowOfExponent e) = true := by
  simp only [windowOfExponent]
  generalize e.toNat = n at h1 h5
  interval_cases n <;> rfl

/-- Every set command validates against the constraint it could break (R266). -/
theorem configAfter_legal {i : Instr} {c : Cfg} (hw : i.wellFormed = true) (hc : c.Legal) :
    (configAfter i c).Legal := by
  obtain ⟨hlen, hon, hoff⟩ := hc
  cases i with
  | setOff v =>
    simp only [configAfter]
    split_ifs with hv
    · exact ⟨hlen, hon, hv⟩
    · exact ⟨hlen, hon, hoff⟩
  | setOn v =>
    simp only [configAfter]
    split_ifs with hv
    · exact ⟨hlen, hv, hoff⟩
    · exact ⟨hlen, hon, hoff⟩
  | setLen e =>
    obtain ⟨h1, h5⟩ : 1 ≤ e.toNat ∧ e.toNat ≤ 5 := by simpa [Instr.wellFormed] using hw
    simp only [configAfter]
    split_ifs with hv
    · obtain ⟨hv1, hv2⟩ := Bool.and_eq_true_iff.mp hv
      exact ⟨legalWindow_windowOfExponent h1 h5, hv1, hv2⟩
    · exact ⟨hlen, hon, hoff⟩
  | _ => exact ⟨hlen, hon, hoff⟩

/-- A message always completes, with its frame pending (R222, R297). -/
theorem exec_message {i : Instr} (h : isCommand i = false) (s : State) :
    exec i s = .next (s.withFrame (frameEncode (encode i))) := by
  have hstage : exec i s = stage (encode i) s := by cases i <;> cases h <;> rfl
  rw [hstage, stage_short (encode_length_le i)]

/-- Staging the reply of a command that has written its register. -/
theorem stage_answered {p : List Byte} (h : p.length ≤ 7) (c : Cfg) (s : State) :
    stage p { s.ackRx with cfg := c } = .next (s.answered c p) :=
  stage_short h _

/-- A command in IDLE consumes its byte, writes its register and stages its reply (R260, R276). -/
theorem exec_command_idle {i : Instr} {s : State} (hi : isCommand i = true)
    (hw : i.wellFormed = true) (h : s.ss.sess = .idle) :
    exec i s = .next (s.answered (configAfter i s.cfg) (replyOf i s.cfg)) := by
  cases i with
  | echo c =>
    rw [exec, execEcho, whenIdle_idle _ h]
    exact stage_answered (p := [0xF1, c]) (by simp) s.cfg s
  | setErr v =>
    rw [exec, execSetErr, whenIdle_idle _ h]
    exact stage_answered (p := [0x03, 61 + v]) (by simp) _ s
  | setOff v =>
    rw [exec, execSetOff, whenIdle_idle _ h]
    simp only [configAfter, replyOf, thresholdLegal_iff, State.ackRx_cfg]
    split_ifs
    · exact stage_answered (p := [0x03, 40 + v]) (by simp) _ s
    · exact stage_answered (p := [0x04, 40 + v]) (by simp) _ s
  | setOn v =>
    rw [exec, execSetOn, whenIdle_idle _ h]
    simp only [configAfter, replyOf, thresholdLegal_iff, State.ackRx_cfg]
    split_ifs
    · exact stage_answered (p := [0x03, 20 + v]) (by simp) _ s
    · exact stage_answered (p := [0x04, 20 + v]) (by simp) _ s
  | setLen e =>
    obtain ⟨-, h5⟩ : 1 ≤ e.toNat ∧ e.toNat ≤ 5 := by simpa [Instr.wellFormed] using hw
    rw [exec, execSetLen, whenIdle_idle _ h]
    simp only [configAfter, replyOf, thresholdLegal_iff, State.ackRx_cfg, Bool.and_eq_true,
      windowOfExponent_toNat h5]
    split_ifs
    · exact stage_answered (p := [0x03, 10 + e]) (by simp) _ s
    · exact stage_answered (p := [0x04, 10 + e]) (by simp) _ s
  | getLen =>
    rw [exec, execGetLen, whenIdle_idle _ h]
    exact stage_answered (p := [0x08, s.cfg.sumLen]) (by simp) s.cfg s
  | getOn =>
    rw [exec, execGetOn, whenIdle_idle _ h]
    exact stage_answered (p := [0x05, s.cfg.thrOn]) (by simp) s.cfg s
  | getOff =>
    rw [exec, execGetOff, whenIdle_idle _ h]
    exact stage_answered (p := [0x06, s.cfg.thrOff]) (by simp) s.cfg s
  | getErr =>
    rw [exec, execGetErr, whenIdle_idle _ h]
    exact stage_answered (p := [0x07, s.cfg.thrErrS]) (by simp) s.cfg s
  | invalid b =>
    rw [exec, execInvalid, whenIdle_idle _ h]
    exact stage_answered (p := [0x04, b]) (by simp) s.cfg s
  | _ => cases hi

/-- Every command is gated by the session (R260). -/
theorem exec_command_eq_whenIdle {i : Instr} (hi : isCommand i = true) (s : State) :
    ∃ run, exec i s = whenIdle run s := by
  cases i <;> cases hi <;>
    simp only [exec, execEcho, execSetErr, execSetOff, execSetOn, execSetLen, execGetLen, execGetOn,
      execGetOff, execGetErr, execInvalid] <;> exact ⟨_, rfl⟩

/-- What a command that completes leaves, by the session it ran in (R260, R277). -/
theorem exec_command_next {i : Instr} {s t : State} (hi : isCommand i = true)
    (hw : i.wellFormed = true) (h : exec i s = .next t) :
    (s.ss.sess = .idle ∧ t = s.answered (configAfter i s.cfg) (replyOf i s.cfg)) ∨
    (s.ss.sess.armed = true ∧ t = s.ackRx) ∨ (s.ss.sess = .sleep ∧ t = s) := by
  obtain ⟨run, hrun⟩ := exec_command_eq_whenIdle hi s
  rcases whenIdle_next (hrun ▸ h) with ⟨hidle, -⟩ | hrest
  · rw [exec_command_idle hi hw hidle] at h
    cases h
    exact .inl ⟨hidle, rfl⟩
  · exact .inr hrest

/-- Settles O53: a message leaves the configuration alone, and each set command validates. -/
theorem instructionsKeepConfigurationLegal : Obligations.InstructionsKeepConfigurationLegal := by
  intro i s t hw hs h
  cases hi : isCommand i with
  | false =>
    rw [exec_message hi] at h
    cases h
    exact hs
  | true =>
    rcases exec_command_next hi hw h with ⟨-, rfl⟩ | ⟨-, rfl⟩ | ⟨-, rfl⟩
    · exact configAfter_legal hw hs
    · exact hs
    · exact hs

theorem isCommand_decodeCommand (b : Byte) : isCommand (decodeCommand b) = true := by
  simp only [decodeCommand]
  split_ifs <;> rfl

theorem decodeCommand_wellFormed (b : Byte) : (decodeCommand b).wellFormed = true := by
  simp only [decodeCommand]
  split_ifs <;> simp [Instr.wellFormed, echoByte, invalidByte] <;> omega

/-- Everything the command phase can do (R293). -/
theorem commandPhase_next {inp : Inputs} {s t : State} (h : commandPhase inp s = .next t) :
    (inp.rxValid = false ∧ t = s) ∨
    (inp.rxValid = true ∧ s.ss.sess = .idle ∧
      t = s.answered (configAfter (decodeCommand inp.rxByte) s.cfg)
        (replyOf (decodeCommand inp.rxByte) s.cfg)) ∨
    (inp.rxValid = true ∧ s.ss.sess.armed = true ∧ t = s.ackRx) ∨
    (inp.rxValid = true ∧ s.ss.sess = .sleep ∧ t = s) := by
  cases hv : inp.rxValid with
  | false =>
    have hskip : commandPhase inp s = .next s := by simp [commandPhase, hv]
    cases hskip.symm.trans h
    exact .inl ⟨rfl, rfl⟩
  | true =>
    rw [commandPhase, if_pos hv] at h
    simpa using exec_command_next (isCommand_decodeCommand _) (decodeCommand_wellFormed _) h

end Sys2Proof.Machine

/-! PROOFS. The moving-sum filter (40_movsum): the running sum and the buffer's sum agree. -/

namespace Sys2Proof.Machine

theorem bufferSum_le (m : Memory 1) (n : Nat) : bufferSum m n ≤ n := by
  induction n with
  | zero => exact Nat.le_refl 0
  | succ n ih =>
    have := (m.read n).isLt
    rw [bufferSum]
    omega

/-- An element is part of the sum of a window that holds it. -/
theorem read_le_bufferSum (m : Memory 1) {i n : Nat} (h : i < n) :
    (m.read i).toNat ≤ bufferSum m n := by
  induction n with
  | zero => omega
  | succ n ih =>
    rw [bufferSum]
    rcases Nat.lt_succ_iff_lt_or_eq.mp h with hi | rfl
    · have := ih hi
      omega
    · omega

theorem bufferSum_congr {m m' : Memory 1} {n : Nat} (h : ∀ a < n, m.read a = m'.read a) :
    bufferSum m n = bufferSum m' n := by
  induction n with
  | zero => rfl
  | succ n ih => rw [bufferSum, bufferSum, ih fun a ha => h a (by omega), h n (by omega)]

/-- A store inside the window exchanges one element of the sum (R133). -/
theorem bufferSum_write {size : Nat} {m : Memory 1} (hm : m.wf size = true) (v : BitVec 1)
    {i n : Nat} (h : i < n) :
    bufferSum (m.write i v) n + (m.read i).toNat = bufferSum m n + v.toNat := by
  induction n with
  | zero => omega
  | succ n ih =>
    rw [bufferSum, bufferSum]
    rcases Nat.lt_succ_iff_lt_or_eq.mp h with hi | rfl
    · have := ih hi
      rw [Memory.read_write_other m i n v (by omega)]
      omega
    · have hrest : bufferSum (m.write i v) i = bufferSum m i :=
        bufferSum_congr fun a ha => Memory.read_write_other m i a v (by omega)
      rw [hrest, Memory.read_write_same hm]
      omega

theorem Memory.read_clear {w size : Nat} {m : Memory w} (hm : m.wf size = true) {a : Nat}
    (h : a < size) : (m.clear size).read a = 0 := by
  simpa [Memory.clear] using
    Memory.read_writeAll_inside (List.replicate size (0 : BitVec w)) m 0 a hm (by simp) (by simpa)

theorem bufferSum_clear {size n : Nat} {m : Memory 1} (hm : m.wf size = true) (h : n ≤ size) :
    bufferSum (m.clear size) n = 0 := by
  induction n with
  | zero => rfl
  | succ n ih => simp [bufferSum, ih (by omega), Memory.read_clear hm (show n < size by omega)]

/-- The running sum in its 6 bits: no wrap while it stays at most 32 (R135, R136). -/
theorem sum_update_toNat {sum : BitVec 6} {new old : BitVec 1} (hold : old.toNat ≤ sum.toNat)
    (hsum : sum.toNat ≤ 32) :
    (sum + new.setWidth 6 - old.setWidth 6).toNat + old.toNat = sum.toNat + new.toNat := by
  have := new.isLt
  have := old.isLt
  simp only [BitVec.toNat_sub, BitVec.toNat_add, BitVec.toNat_setWidth]
  omega

/-- The filter registers are those of a window of `n` samples (R50(h), R50(i), R135). -/
def MovSum.Window (n : Nat) (m : MovSum) : Prop :=
  m.len.toNat = n ∧ m.idx.toNat < m.len.toNat ∧ m.sum.toNat = bufferSum m.buf m.len.toNat

/-- `MS_Setup` loads an empty window. -/
theorem msSetup_window {n : Nat} {s t : State} (hbuf : s.ms.buf.wf Config.maxWindow = true)
    (h : msSetup n s = .next t) :
    t.ms.Window n ∧ t.ms.buf.wf Config.maxWindow = true := by
  obtain ⟨⟨hn1, hn32⟩, ht⟩ := msSetup_next_iff.mp h
  have hcap : Config.maxWindow = 32 := rfl
  have hlen : t.ms.len.toNat = n := by
    rw [ht, BitVec.toNat_ofNat]
    exact Nat.mod_eq_of_lt (by omega)
  have hidx : t.ms.idx = 0 := by rw [ht]
  have hsum : t.ms.sum = 0 := by rw [ht]
  have hclear : t.ms.buf = s.ms.buf.clear Config.maxWindow := by rw [ht]
  refine ⟨⟨hlen, ?_, ?_⟩, ?_⟩
  · rw [hidx, hlen]
    exact hn1
  · rw [hsum, hlen, hclear, bufferSum_clear hbuf hn32]
    rfl
  · rw [hclear]
    exact Memory.clear_wf hbuf _ (Nat.le_refl _)

/-- `MS_Run` keeps the window. -/
theorem msRun_window {x : Bool} {n : Nat} {s t : State} (hw : s.ms.Window n)
    (hbuf : s.ms.buf.wf Config.maxWindow = true) (h : msRun x s = .next t) :
    t.ms.Window n ∧ t.ms.buf.wf Config.maxWindow = true := by
  obtain ⟨⟨hl1, hl32⟩, rfl⟩ := msRun_next_iff.mp h
  obtain ⟨hlen, -, hsum⟩ := hw
  have hi : nextIndex s.ms < s.ms.len.toNat := nextIndex_lt hl1
  have hcap : Config.maxWindow = 32 := rfl
  have hidx : (BitVec.ofNat 5 (nextIndex s.ms)).toNat = nextIndex s.ms := by
    rw [BitVec.toNat_ofNat]
    exact Nat.mod_eq_of_lt (by omega)
  have hold := read_le_bufferSum s.ms.buf hi
  have hle := bufferSum_le s.ms.buf s.ms.len.toNat
  have hupd := sum_update_toNat (new := BitVec.ofBool x) (hsum ▸ hold) (by omega)
  have hwrite := bufferSum_write hbuf (BitVec.ofBool x) hi
  refine ⟨⟨hlen, ?_, ?_⟩, Memory.write_wf hbuf (by omega) _⟩
  · show (BitVec.ofNat 5 (nextIndex s.ms)).toNat < s.ms.len.toNat
    omega
  · show (s.ms.sum + (BitVec.ofBool x).setWidth 6
        - (s.ms.buf.read (nextIndex s.ms)).setWidth 6).toNat
      = bufferSum (s.ms.buf.write (nextIndex s.ms) (BitVec.ofBool x)) s.ms.len.toNat
    omega

end Sys2Proof.Machine

/-! PROOFS. The wheel phase (41_wheel): each row of R170 moves the wheel, yields its event and
sets the indicators together. -/

namespace Sys2Proof.Machine

/-- The wheel states in which no axle is reported. -/
def Wheel.Absent (w : Wheel) : Prop := w = .off ∨ w = .preOn

/-- The wheel states in which an axle is on the sensor. -/
def Wheel.Present (w : Wheel) : Prop := w = .on ∨ w = .preOff

/-- What a row of R170 does to the wheel and the event it yields with that (R152 to R156, R162 to
R166), with either front end. -/
inductive WheelMove : Wheel → WheelEvent → Wheel → Prop
  | absent {w w' ev} (h : w.Absent) (h' : w'.Absent) (hev : ev = .none ∨ ev = .wStop) :
      WheelMove w ev w'
  | commitOn {w} (h : w.Absent) : WheelMove w .wOn .on
  | present {w w'} (h : w.Present) (h' : w'.Present) : WheelMove w .none w'
  | commitOff {w on off ton toff} (h : w.Present) : WheelMove w (.wAxle on off ton toff) .off
  | commitError {w off} (h : w.Present) : WheelMove w (.wErr off) .onError
  | error : WheelMove .onError .none .onError
  | recover : WheelMove .onError .wRec .off

/-- The indicators as R46 has them while armed. -/
def IndicatorsFollow (w : Wheel) (i : Indicators) : Prop :=
  i.axle = (w == .on || w == .preOff || w == .onError) ∧ i.error = (w == .onError)

theorem indicatorsFollow_absent {w : Wheel} {i : Indicators} (h : w.Absent) :
    IndicatorsFollow w i ↔ i.axle = false ∧ i.error = false := by
  rcases h with rfl | rfl <;> exact Iff.rfl

theorem indicatorsFollow_present {w : Wheel} {i : Indicators} (h : w.Present) :
    IndicatorsFollow w i ↔ i.axle = true ∧ i.error = false := by
  rcases h with rfl | rfl <;> exact Iff.rfl

theorem indicatorsFollow_onError {i : Indicators} :
    IndicatorsFollow .onError i ↔ i.axle = true ∧ i.error = true := by
  simp [IndicatorsFollow]

/-- A row of R170 run from `s` with the result `r`: it writes only the wheel registers and the
indicators, and moves the wheel, the event and the indicators together. -/
structure WheelRow (s : State) (r : State × WheelEvent) : Prop where
  frame : ∃ w i, r.1 = { s with wh := w, ind := i }
  move : WheelMove s.wh.wheel r.2 r.1.wh.wheel
  ind : IndicatorsFollow s.wh.wheel s.ind → IndicatorsFollow r.1.wh.wheel r.1.ind

section
variable {inp : Inputs} {s t : State}

/-- A row that first writes wheel registers other than `wheel`. -/
theorem WheelRow.after {r : State × WheelEvent} {w : WheelRegs} (hw : w.wheel = s.wh.wheel)
    (h : WheelRow { s with wh := w } r) : WheelRow s r where
  frame := h.frame
  move := hw ▸ h.move
  ind hi := h.ind (show IndicatorsFollow w.wheel s.ind from hw ▸ hi)

theorem WheelRow.absent {w : WheelRegs} {ev : WheelEvent} (hs : s.wh.wheel.Absent)
    (hw : w.wheel.Absent) (hev : ev = .none ∨ ev = .wStop) :
    WheelRow s ({ s with wh := w }, ev) where
  frame := ⟨_, _, rfl⟩
  move := .absent hs hw hev
  ind hi := (indicatorsFollow_absent hw).mpr ((indicatorsFollow_absent hs).mp hi)

theorem WheelRow.present {w : WheelRegs} (hs : s.wh.wheel.Present) (hw : w.wheel.Present) :
    WheelRow s ({ s with wh := w }, .none) where
  frame := ⟨_, _, rfl⟩
  move := .present hs hw
  ind hi := (indicatorsFollow_present hw).mpr ((indicatorsFollow_present hs).mp hi)

theorem WheelRow.error {w : WheelRegs} (hs : s.wh.wheel = .onError) (hw : w.wheel = .onError) :
    WheelRow s ({ s with wh := w }, .none) where
  frame := ⟨_, _, rfl⟩
  move := by
    show WheelMove s.wh.wheel .none w.wheel
    rw [hs, hw]
    exact .error
  ind hi := by
    show IndicatorsFollow w.wheel s.ind
    rw [hw, ← hs]
    exact hi

/-- Arming the stop timer touches no register that a row speaks of. -/
theorem WheelRow.armStop {r : State × WheelEvent} (h : WheelRow s r) :
    WheelRow s (r.1.armStop, r.2) where
  frame := by
    obtain ⟨w, i, hr⟩ := h.frame
    exact ⟨_, i, by rw [hr]; rfl⟩
  move := h.move
  ind := h.ind

theorem commitOn_row (h : s.wh.wheel.Absent) : WheelRow s (commitOn inp s) where
  frame := ⟨_, _, rfl⟩
  move := .commitOn h
  ind hi := by
    obtain ⟨-, herr⟩ := (indicatorsFollow_absent h).mp hi
    exact (indicatorsFollow_present (.inl rfl)).mpr ⟨rfl, herr⟩

theorem commitOff_row (h : s.wh.wheel.Present) : WheelRow s (commitOff inp s) where
  frame := ⟨_, _, rfl⟩
  move := .commitOff h
  ind hi := by
    obtain ⟨-, herr⟩ := (indicatorsFollow_present h).mp hi
    exact (indicatorsFollow_absent (.inl rfl)).mpr ⟨rfl, herr⟩

theorem commitError_row (h : s.wh.wheel.Present) : WheelRow s (commitError s) where
  frame := ⟨_, _, rfl⟩
  move := .commitError h
  ind hi := by
    obtain ⟨haxle, -⟩ := (indicatorsFollow_present h).mp hi
    exact indicatorsFollow_onError.mpr ⟨haxle, rfl⟩

theorem recover_row (h : s.wh.wheel = .onError) : WheelRow s (recover s) where
  frame := ⟨_, _, rfl⟩
  move := by rw [h]; exact .recover
  ind _ := (indicatorsFollow_absent (.inl rfl)).mpr ⟨rfl, rfl⟩

theorem movsumOff_row (h : s.wh.wheel = .off) : WheelRow s (movsumOff inp s) := by
  simp only [movsumOff]
  split_ifs
  · exact .after (w := s.countOff.wh) rfl (commitOn_row (.inl h))
  · exact .absent (.inl h) (.inl h) (.inr rfl)
  · exact .absent (.inl h) (.inl h) (.inl rfl)

theorem movsumOn_row (h : s.wh.wheel = .on) : WheelRow s (movsumOn inp s) := by
  simp only [movsumOn]
  split_ifs
  · exact .after (w := s.countOn.wh) rfl (commitOff_row (.inl h))
  · exact .after (w := s.countOn.wh) rfl (commitError_row (.inl h))
  · exact .present (.inl h) (.inl h)

theorem movsumOnError_row (h : s.wh.wheel = .onError) : WheelRow s (movsumOnError s) := by
  simp only [movsumOnError]
  split_ifs
  · exact recover_row h
  · exact .error h h

theorem debounceOff_row {rise : Bool} (h : s.wh.wheel = .off) :
    WheelRow s (debounceOff rise s) := by
  simp only [debounceOff]
  split_ifs
  · exact .absent (.inl h) (.inr rfl) (.inl rfl)
  · exact .absent (.inl h) (.inl h) (.inr rfl)
  · exact .absent (.inl h) (.inl h) (.inl rfl)
  · exact .absent (.inl h) (.inl h) (.inl rfl)

theorem debouncePreOn_row {fall : Bool} (h : s.wh.wheel = .preOn) :
    WheelRow s (debouncePreOn inp fall s) := by
  simp only [debouncePreOn]
  split_ifs
  · exact .absent (.inr h) (.inl rfl) (.inl rfl)
  · exact .after (w := (s.countOff.setDcnt (s.wh.dcnt - 1)).wh) rfl (commitOn_row (.inr h))
  · exact .absent (.inr h) (.inr h) (.inl rfl)

theorem debounceOn_row {fall : Bool} (h : s.wh.wheel = .on) : WheelRow s (debounceOn fall s) := by
  simp only [debounceOn]
  split_ifs
  · exact .present (.inl h) (.inr rfl)
  · exact .after (w := s.countOn.wh) rfl (commitError_row (.inl h))
  · exact .present (.inl h) (.inl h)

theorem debouncePreOff_row {rise : Bool} (h : s.wh.wheel = .preOff) :
    WheelRow s (debouncePreOff inp rise s) := by
  simp only [debouncePreOff]
  split_ifs
  · exact .present (.inr h) (.inl rfl)
  · exact .after (w := (s.countOn.setDcnt (s.wh.dcnt - 1)).wh) rfl
      (commitOff_row (s := s.countOn.setDcnt (s.wh.dcnt - 1)) (.inr h)).armStop
  · exact .present (.inr h) (.inr h)

theorem debounceOnError_row {rise fall : Bool} (h : s.wh.wheel = .onError) :
    WheelRow s (debounceOnError rise fall s) := by
  simp only [debounceOnError]
  split_ifs
  · exact .error h h
  · exact .error h h
  · exact .after (w := (s.setDcnt (s.wh.dcnt - 1)).wh) rfl (recover_row h)
  · exact .error h h
  · exact .error h h

/-- `WheelMovsum` runs the filter, then the row of the wheel (R151). -/
theorem wheelMovsum_next {r : State × WheelEvent} (h : wheelMovsum inp s = .next r) :
    ∃ m, msRun inp.cellIn s = .next m ∧
      ((m.wh.wheel = .off ∧ r = movsumOff inp m) ∨ (m.wh.wheel = .on ∧ r = movsumOn inp m) ∨
        (m.wh.wheel = .onError ∧ r = movsumOnError m)) := by
  obtain ⟨m, hrun, hrow⟩ := andThen_next_iff.mp h
  refine ⟨m, hrun, ?_⟩
  split at hrow <;> cases hrow <;> simp_all

@[simp] theorem sampleEdge_wheel : (sampleEdge inp s).wh.wheel = s.wh.wheel := rfl

@[simp] theorem sampleEdge_dcnt : (sampleEdge inp s).wh.dcnt = s.wh.dcnt := rfl

/-- `WheelDebounce` samples the edge, then runs the row of the wheel (R160). -/
theorem wheelDebounce_next {r : State × WheelEvent} (h : wheelDebounce inp s = .next r) :
    (s.wh.wheel = .off ∧ r = debounceOff (rising inp s) (sampleEdge inp s)) ∨
    (s.wh.wheel = .preOn ∧ r = debouncePreOn inp (falling inp s) (sampleEdge inp s)) ∨
    (s.wh.wheel = .on ∧ r = debounceOn (falling inp s) (sampleEdge inp s)) ∨
    (s.wh.wheel = .preOff ∧ r = debouncePreOff inp (rising inp s) (sampleEdge inp s)) ∨
    (s.wh.wheel = .onError ∧
      r = debounceOnError (rising inp s) (falling inp s) (sampleEdge inp s)) := by
  simp only [wheelDebounce, sampleEdge_wheel] at h
  split at h <;> cases h <;> simp_all

/-- Everything the wheel phase can do (R150). -/
theorem wheelPhase_next {ev : WheelEvent} (h : wheelPhase inp s = .next (t, ev)) :
    (s.ss.sess.armed = false ∧ t = s ∧ ev = .none) ∨
    (s.ss.sess.armed = true ∧ s.par.frontend = .movsum ∧ wheelMovsum inp s = .next (t, ev)) ∨
    (s.ss.sess.armed = true ∧ s.par.frontend = .debounce ∧
      wheelDebounce inp s = .next (t, ev)) := by
  cases ha : s.ss.sess.armed with
  | false =>
    rw [wheelPhase_unarmed ha] at h
    cases h
    exact .inl ⟨rfl, rfl, rfl⟩
  | true =>
    rw [wheelPhase, if_pos ha] at h
    cases hf : s.par.frontend <;> rw [hf] at h
    · exact .inr (.inl ⟨rfl, rfl, h⟩)
    · exact .inr (.inr ⟨rfl, rfl, h⟩)

/-- With the moving-sum front end the phase is a row from the state the filter leaves. -/
theorem wheelMovsum_row {r : State × WheelEvent} (h : wheelMovsum inp s = .next r) :
    ∃ m, msRun inp.cellIn s = .next m ∧ WheelRow m r := by
  obtain ⟨m, hrun, ⟨hw, rfl⟩ | ⟨hw, rfl⟩ | ⟨hw, rfl⟩⟩ := wheelMovsum_next h
  · exact ⟨m, hrun, movsumOff_row hw⟩
  · exact ⟨m, hrun, movsumOn_row hw⟩
  · exact ⟨m, hrun, movsumOnError_row hw⟩

/-- With the debounce front end the phase is a row of the wheel registers. -/
theorem wheelDebounce_row {r : State × WheelEvent} (h : wheelDebounce inp s = .next r) :
    WheelRow s r := by
  refine .after (w := (sampleEdge inp s).wh) rfl ?_
  rcases wheelDebounce_next h with ⟨hw, rfl⟩ | ⟨hw, rfl⟩ | ⟨hw, rfl⟩ | ⟨hw, rfl⟩ | ⟨hw, rfl⟩
  · exact debounceOff_row hw
  · exact debouncePreOn_row hw
  · exact debounceOn_row hw
  · exact debouncePreOff_row hw
  · exact debounceOnError_row hw

/-- The filter writes its own registers only (R48). -/
theorem msRun_frame {x : Bool} (h : msRun x s = .next t) : ∃ m, t = { s with ms := m } := by
  obtain ⟨-, rfl⟩ := msRun_next_iff.mp h
  exact ⟨_, rfl⟩

/-- The wheel phase writes the filter, the wheel registers and the indicators only (R48). -/
theorem wheelPhase_frame {ev : WheelEvent} (h : wheelPhase inp s = .next (t, ev)) :
    ∃ m w i, t = { s with ms := m, wh := w, ind := i } := by
  rcases wheelPhase_next h with ⟨-, rfl, -⟩ | ⟨-, -, hm⟩ | ⟨-, -, hd⟩
  · exact ⟨_, _, _, rfl⟩
  · obtain ⟨u, hrun, hrow⟩ := wheelMovsum_row hm
    obtain ⟨m, rfl⟩ := msRun_frame hrun
    obtain ⟨w, i, ht⟩ := hrow.frame
    exact ⟨m, w, i, ht⟩
  · obtain ⟨w, i, ht⟩ := (wheelDebounce_row hd).frame
    exact ⟨_, w, i, ht⟩

/-- While armed the phase moves the wheel by a row of R170. -/
theorem wheelPhase_move {ev : WheelEvent} (h : wheelPhase inp s = .next (t, ev))
    (ha : s.ss.sess.armed = true) : WheelMove s.wh.wheel ev t.wh.wheel := by
  rcases wheelPhase_next h with ⟨hna, -⟩ | ⟨-, -, hm⟩ | ⟨-, -, hd⟩
  · simp [ha] at hna
  · obtain ⟨u, hrun, hrow⟩ := wheelMovsum_row hm
    obtain ⟨m, rfl⟩ := msRun_frame hrun
    exact hrow.move
  · exact (wheelDebounce_row hd).move

end

end Sys2Proof.Machine

/-! PROOFS. The debounce registers (10_state R40, R50(f)) across the wheel phase. -/

namespace Sys2Proof.Machine

/-- How `prev_in` and `dcnt` go with the wheel under the debounce front end (R50(f)). -/
def EdgeInv (w : WheelRegs) : Prop :=
  (w.wheel = .off → w.prevIn = false) ∧
  (w.wheel = .on → w.prevIn = true ∧ w.dcnt = 0) ∧
  (w.wheel = .preOn → w.prevIn = true ∧ w.dcnt ≠ 0) ∧
  (w.wheel = .preOff → w.prevIn = false ∧ w.dcnt ≠ 0) ∧
  (w.wheel = .onError → w.dcnt ≠ 0 → w.prevIn = false)

theorem debounceInv_iff {s : State} :
    DebounceInv s ↔
      (s.par.frontend = .movsum →
        s.wh.prevIn = false ∧ s.wh.dcnt = 0 ∧ s.wh.stopArmed = false ∧ s.wh.stopCnt = 0) ∧
      (s.par.frontend = .debounce → s.ss.sess.armed = true → EdgeInv s.wh) := Iff.rfl

section
variable {w : WheelRegs}

theorem edgeInv_off (h : w.wheel = .off) : EdgeInv w ↔ w.prevIn = false := by
  simp [EdgeInv, h]

theorem edgeInv_on (h : w.wheel = .on) : EdgeInv w ↔ w.prevIn = true ∧ w.dcnt = 0 := by
  simp [EdgeInv, h]

theorem edgeInv_preOn (h : w.wheel = .preOn) : EdgeInv w ↔ w.prevIn = true ∧ w.dcnt ≠ 0 := by
  simp [EdgeInv, h]

theorem edgeInv_preOff (h : w.wheel = .preOff) : EdgeInv w ↔ w.prevIn = false ∧ w.dcnt ≠ 0 := by
  simp [EdgeInv, h]

theorem edgeInv_onError (h : w.wheel = .onError) :
    EdgeInv w ↔ (w.dcnt ≠ 0 → w.prevIn = false) := by
  simp [EdgeInv, h]

end

/-- The debounce timer loads as a nonzero count (R9, log entry 18). -/
theorem debTicks_ne_zero {p : Params} (h : ParamsOk p) : BitVec.ofNat 32 (debTicks p) ≠ 0 := by
  obtain ⟨-, -, -, hlo, hhi, -⟩ := h
  intro he
  have := congrArg BitVec.toNat he
  rw [BitVec.toNat_ofNat, Nat.mod_eq_of_lt hhi] at this
  have : (0 : U32).toNat = 0 := rfl
  omega

section
variable {inp : Inputs} {s t : State}

theorem debounceOff_edge (h : s.wh.wheel = .off) (hp : ParamsOk s.par) (he : EdgeInv s.wh) :
    EdgeInv (debounceOff (rising inp s) (sampleEdge inp s)).1.wh := by
  have hprev := (edgeInv_off h).mp he
  simp only [debounceOff]
  split_ifs with hr
  · have hin : inp.cellIn = true := by simpa [rising, hprev] using hr
    exact (edgeInv_preOn rfl).mpr ⟨hin, debTicks_ne_zero hp⟩
  all_goals
    have hin : inp.cellIn = false := by simpa [rising, hprev] using hr
    exact (edgeInv_off (by exact h)).mpr hin

theorem debouncePreOn_edge (h : s.wh.wheel = .preOn) (he : EdgeInv s.wh) :
    EdgeInv (debouncePreOn inp (falling inp s) (sampleEdge inp s)).1.wh := by
  obtain ⟨hprev, -⟩ := (edgeInv_preOn h).mp he
  simp only [debouncePreOn]
  split_ifs with hf hz
  · have hin : inp.cellIn = false := by simpa [falling, hprev] using hf
    exact (edgeInv_off rfl).mpr hin
  all_goals have hin : inp.cellIn = true := by simpa [falling, hprev] using hf
  · exact (edgeInv_on rfl).mpr ⟨hin, hz⟩
  · exact (edgeInv_preOn (by exact h)).mpr ⟨hin, hz⟩

theorem debounceOn_edge (h : s.wh.wheel = .on) (hp : ParamsOk s.par) (he : EdgeInv s.wh) :
    EdgeInv (debounceOn (falling inp s) (sampleEdge inp s)).1.wh := by
  obtain ⟨hprev, hcnt⟩ := (edgeInv_on h).mp he
  simp only [debounceOn]
  split_ifs with hf
  · have hin : inp.cellIn = false := by simpa [falling, hprev] using hf
    exact (edgeInv_preOff rfl).mpr ⟨hin, debTicks_ne_zero hp⟩
  · exact (edgeInv_onError rfl).mpr fun hne => absurd hcnt hne
  · have hin : inp.cellIn = true := by simpa [falling, hprev] using hf
    exact (edgeInv_on (by exact h)).mpr ⟨hin, hcnt⟩

theorem debouncePreOff_edge (h : s.wh.wheel = .preOff) (he : EdgeInv s.wh) :
    EdgeInv (debouncePreOff inp (rising inp s) (sampleEdge inp s)).1.wh := by
  obtain ⟨hprev, -⟩ := (edgeInv_preOff h).mp he
  simp only [debouncePreOff]
  split_ifs with hr hz
  · have hin : inp.cellIn = true := by simpa [rising, hprev] using hr
    exact (edgeInv_on rfl).mpr ⟨hin, rfl⟩
  all_goals have hin : inp.cellIn = false := by simpa [rising, hprev] using hr
  · exact (edgeInv_off rfl).mpr hin
  · exact (edgeInv_preOff (by exact h)).mpr ⟨hin, hz⟩

theorem debounceOnError_edge (h : s.wh.wheel = .onError) (he : EdgeInv s.wh) :
    EdgeInv (debounceOnError (rising inp s) (falling inp s) (sampleEdge inp s)).1.wh := by
  have hprev := (edgeInv_onError h).mp he
  simp only [debounceOnError]
  split_ifs with hf hr hpos hz
  · obtain ⟨hin, -⟩ : inp.cellIn = false ∧ s.wh.prevIn = true := by simpa [falling] using hf
    exact (edgeInv_onError (by exact h)).mpr fun _ => hin
  · exact (edgeInv_onError (by exact h)).mpr fun hne => (hne rfl).elim
  all_goals have hstay : s.wh.prevIn = false → inp.cellIn = false := by
              intro hlow
              simpa [rising, hlow] using hr
  · have hne : s.wh.dcnt ≠ 0 := fun h0 => by simp [h0] at hpos
    exact (edgeInv_off rfl).mpr (hstay (hprev hne))
  · have hne : s.wh.dcnt ≠ 0 := fun h0 => by simp [h0] at hpos
    exact (edgeInv_onError (by exact h)).mpr fun _ => hstay (hprev hne)
  · exact (edgeInv_onError (by exact h)).mpr fun hne => hstay (hprev hne)

theorem wheelDebounce_edge {r : State × WheelEvent} (h : wheelDebounce inp s = .next r)
    (hp : ParamsOk s.par) (he : EdgeInv s.wh) : EdgeInv r.1.wh := by
  rcases wheelDebounce_next h with ⟨hw, rfl⟩ | ⟨hw, rfl⟩ | ⟨hw, rfl⟩ | ⟨hw, rfl⟩ | ⟨hw, rfl⟩
  · exact debounceOff_edge hw hp he
  · exact debouncePreOn_edge hw he
  · exact debounceOn_edge hw hp he
  · exact debouncePreOff_edge hw he
  · exact debounceOnError_edge hw he

/-- A row of the moving-sum front end: the wheel stays among its three states and the debounce
registers are left alone (R39, R40). -/
structure MovsumRow (w w' : WheelRegs) : Prop where
  wheel : w'.wheel = .off ∨ w'.wheel = .on ∨ w'.wheel = .onError
  prevIn : w'.prevIn = w.prevIn
  dcnt : w'.dcnt = w.dcnt
  stopArmed : w'.stopArmed = w.stopArmed
  stopCnt : w'.stopCnt = w.stopCnt

theorem movsumOff_registers (h : s.wh.wheel = .off) : MovsumRow s.wh (movsumOff inp s).1.wh := by
  simp only [movsumOff]
  split_ifs
  · exact ⟨.inr (.inl rfl), rfl, rfl, rfl, rfl⟩
  · exact ⟨.inl h, rfl, rfl, rfl, rfl⟩
  · exact ⟨.inl h, rfl, rfl, rfl, rfl⟩

theorem movsumOn_registers (h : s.wh.wheel = .on) : MovsumRow s.wh (movsumOn inp s).1.wh := by
  simp only [movsumOn]
  split_ifs
  · exact ⟨.inl rfl, rfl, rfl, rfl, rfl⟩
  · exact ⟨.inr (.inr rfl), rfl, rfl, rfl, rfl⟩
  · exact ⟨.inr (.inl h), rfl, rfl, rfl, rfl⟩

theorem movsumOnError_registers (h : s.wh.wheel = .onError) :
    MovsumRow s.wh (movsumOnError s).1.wh := by
  simp only [movsumOnError]
  split_ifs
  · exact ⟨.inl rfl, rfl, rfl, rfl, rfl⟩
  · exact ⟨.inr (.inr h), rfl, rfl, rfl, rfl⟩

theorem wheelMovsum_registers {r : State × WheelEvent} (h : wheelMovsum inp s = .next r) :
    MovsumRow s.wh r.1.wh := by
  obtain ⟨u, hrun, hrow⟩ := wheelMovsum_next h
  obtain ⟨m, rfl⟩ := msRun_frame hrun
  rcases hrow with ⟨hw, rfl⟩ | ⟨hw, rfl⟩ | ⟨hw, rfl⟩
  · exact movsumOff_registers hw
  · exact movsumOn_registers hw
  · exact movsumOnError_registers hw

end

end Sys2Proof.Machine

/-! PROOFS. The staging registers (46_tick_step R297, R298) and the session phase (42_session). -/

namespace Sys2Proof.Machine

/-- The staging registers of R50(g), with the buffer in canonical form. -/
def Staging.Sound (x : Staging) : Prop :=
  (x.len.toNat ≤ Config.txBufMax ∧ (x.len = 0 ∨ x.pos.toNat < x.len.toNat)) ∧
  x.buf.wf Config.txBufMax = true

/-- The staging registers after a phase that reports at most once: as they were, or with the frame
of a payload pending. -/
def Staged (a b : Staging) : Prop :=
  b = a ∨ ∃ p : List Byte, p.length ≤ 7 ∧
    b = { buf := a.buf.writeAll 0 (frameEncode p), len := BitVec.ofNat 5 (frameEncode p).length
          pos := 0 }

theorem Staged.sound {a b : Staging} (h : Staged a b) (ha : a.Sound) : b.Sound := by
  rcases h with rfl | ⟨p, hp, hb⟩
  · exact ha
  obtain ⟨-, hbuf⟩ := ha
  have hle : (frameEncode p).length ≤ 16 := by
    have := frameEncode_length_le p
    omega
  have hpos : 0 < (frameEncode p).length := by simp [frameEncode]
  have hlen : b.len.toNat = (frameEncode p).length := by
    rw [hb, BitVec.toNat_ofNat]
    exact Nat.mod_eq_of_lt (by omega)
  have hwf := Memory.writeAll_wf (frameEncode p) a.buf 0 hbuf (by rw [Nat.zero_add]; exact hle)
  refine ⟨⟨hlen ▸ hle, .inr ?_⟩, ?_⟩
  · rw [hlen, show b.pos = 0 by rw [hb]]
    exact hpos
  · rw [show b.buf = a.buf.writeAll 0 (frameEncode p) by rw [hb]]
    exact hwf

theorem staged_withFrame {p : List Byte} (h : p.length ≤ 7) (s : State) :
    Staged s.tx (s.withFrame (frameEncode p)).tx :=
  .inr ⟨p, h, rfl⟩

theorem replyOf_length_le (i : Instr) (c : Cfg) : (replyOf i c).length ≤ 7 := by
  cases i with
  | setOff v => simp only [replyOf]; split_ifs <;> simp
  | setOn v => simp only [replyOf]; split_ifs <;> simp
  | setLen e => simp only [replyOf]; split_ifs <;> simp
  | _ => simp [replyOf, encode_length_le]

theorem staged_answered (i : Instr) (c d : Cfg) (s : State) :
    Staged s.tx (s.answered c (replyOf i d)).tx :=
  .inr ⟨_, replyOf_length_le i d, rfl⟩

/-- A byte sent keeps the indices in range: it advances `tx_pos`, or ends the message (R298). -/
theorem sendByte_sound {s : State} (h : s.tx.Sound) (hlen : s.tx.len ≠ 0) :
    s.sendByte.tx.Sound := by
  obtain ⟨⟨hle, hpos⟩, hbuf⟩ := h
  have hpos : s.tx.pos.toNat < s.tx.len.toNat := hpos.resolve_left hlen
  have hle16 : s.tx.len.toNat ≤ 16 := hle
  simp only [State.sendByte]
  split_ifs with hlast
  · exact ⟨⟨Nat.zero_le _, .inl rfl⟩, hbuf⟩
  · refine ⟨⟨hle, .inr ?_⟩, hbuf⟩
    have hnext : (s.tx.pos + 1).toNat = s.tx.pos.toNat + 1 := by
      rw [BitVec.toNat_add]
      exact Nat.mod_eq_of_lt (by have : (1 : BitVec 5).toNat = 1 := rfl; omega)
    have hne : (s.tx.pos + 1).toNat ≠ s.tx.len.toNat := fun he => hlast (BitVec.eq_of_toNat_eq he)
    show (s.tx.pos + 1).toNat < s.tx.len.toNat
    omega

/-- How `sess`, `pb_started` and the wheel go together (R50(b) to (e), R199): `SessionInv` on the
registers alone. -/
def Coupled (a : SessionRegs) (w : Wheel) : Prop :=
  (a.sess = .passbyOn → w.Present) ∧ (a.sess = .error → w = .onError) ∧
  (a.sess = .rdy ∨ a.sess = .passbyOff → w.Absent) ∧
  (a.pbStarted = true → a.sess = .passbyOn ∨ a.sess = .passbyOff ∨ a.sess = .error) ∧
  (a.sess = .passbyOff → a.pbStarted = true)

theorem sessionInv_iff {s : State} : SessionInv s ↔ Coupled s.ss s.wh.wheel := Iff.rfl

section
variable {a : SessionRegs} {w : Wheel}

theorem coupled_unarmed (h : a.sess.armed = false) : Coupled a w ↔ a.pbStarted = false := by
  cases hs : a.sess <;> simp [Session.armed, hs] at h <;> simp [Coupled, hs]

theorem coupled_rdy (h : a.sess = .rdy) : Coupled a w ↔ w.Absent ∧ a.pbStarted = false := by
  simp [Coupled, h]

theorem coupled_passbyOn (h : a.sess = .passbyOn) : Coupled a w ↔ w.Present := by
  simp [Coupled, h]

theorem coupled_passbyOff (h : a.sess = .passbyOff) :
    Coupled a w ↔ w.Absent ∧ a.pbStarted = true := by
  simp [Coupled, h]

theorem coupled_error (h : a.sess = .error) : Coupled a w ↔ w = .onError := by
  simp [Coupled, h]

end

section
variable {w w' : Wheel} {ev : WheelEvent}

theorem WheelMove.of_absent (h : WheelMove w ev w') (hw : w.Absent) :
    (w'.Absent ∧ (ev = .none ∨ ev = .wStop)) ∨ (w' = .on ∧ ev = .wOn) := by
  have hnp : ¬ w.Present := by rcases hw with rfl | rfl <;> simp [Wheel.Present]
  cases h with
  | absent _ h' hev => exact .inl ⟨h', hev⟩
  | commitOn _ => exact .inr ⟨rfl, rfl⟩
  | present h _ => exact absurd h hnp
  | commitOff h => exact absurd h hnp
  | commitError h => exact absurd h hnp
  | error => simp [Wheel.Absent] at hw
  | recover => simp [Wheel.Absent] at hw

theorem WheelMove.of_present (h : WheelMove w ev w') (hw : w.Present) :
    (w'.Present ∧ ev = .none) ∨ (w' = .off ∧ ∃ on off ton toff, ev = .wAxle on off ton toff) ∨
      (w' = .onError ∧ ∃ off, ev = .wErr off) := by
  have hna : ¬ w.Absent := by rcases hw with rfl | rfl <;> simp [Wheel.Absent]
  cases h with
  | absent h _ _ => exact absurd h hna
  | commitOn h => exact absurd h hna
  | present _ h' => exact .inl ⟨h', rfl⟩
  | commitOff _ => exact .inr (.inl ⟨rfl, _, _, _, _, rfl⟩)
  | commitError _ => exact .inr (.inr ⟨rfl, _, rfl⟩)
  | error => simp [Wheel.Present] at hw
  | recover => simp [Wheel.Present] at hw

theorem WheelMove.of_onError (h : WheelMove .onError ev w') :
    (w' = .onError ∧ ev = .none) ∨ (w' = .off ∧ ev = .wRec) := by
  cases h with
  | absent h _ _ => simp [Wheel.Absent] at h
  | commitOn h => simp [Wheel.Absent] at h
  | present h _ => simp [Wheel.Present] at h
  | commitOff h => simp [Wheel.Present] at h
  | commitError h => simp [Wheel.Present] at h
  | error => exact .inl ⟨rfl, rfl⟩
  | recover => exact .inr ⟨rfl, rfl⟩

/-- A row ends in a used encoding (93 I7). -/
theorem WheelMove.bits_le (h : WheelMove w ev w') : w'.bits.toNat ≤ 4 := by
  cases h with
  | absent _ h' _ => rcases h' with rfl | rfl <;> decide
  | present _ h' => rcases h' with rfl | rfl <;> decide
  | _ => decide

end

section
variable {inp : Inputs} {s t : State} {ev : WheelEvent}

theorem execMsgAxle_eq (on off : U32) (s : State) :
    execMsgAxle on off s = .next (s.withFrame (frameEncode (encode (.msgAxle on off)))) :=
  exec_message (i := .msgAxle on off) rfl s

theorem execMsgAxleErr_eq (off : U32) (s : State) :
    execMsgAxleErr off s = .next (s.withFrame (frameEncode (encode (.msgAxleErr off)))) :=
  exec_message (i := .msgAxleErr off) rfl s

theorem execMsgStart_eq (pid : U16) (ts : U32) (s : State) :
    execMsgStart pid ts s = .next (s.withFrame (frameEncode (encode (.msgStart pid ts)))) :=
  exec_message (i := .msgStart pid ts) rfl s

theorem execMsgStop_eq (pid n : U16) (s : State) :
    execMsgStop pid n s = .next (s.withFrame (frameEncode (encode (.msgStop pid n)))) :=
  exec_message (i := .msgStop pid n) rfl s

/-- What an armed state may write with `arm_in = 1`: the session registers, to `r`, and one
report. -/
def SessionWrites (s t : State) (r : SessionRegs) : Prop :=
  ∃ x, Staged s.tx x ∧ t = { s with ss := r, tx := x }

theorem SessionWrites.silent (r : SessionRegs) : SessionWrites s { s with ss := r } r :=
  ⟨s.tx, .inl rfl, rfl⟩

theorem SessionWrites.report (i : Instr) (q r : SessionRegs) :
    SessionWrites s
      { State.withFrame (frameEncode (encode i)) { s with ss := q } with ss := r } r :=
  ⟨_, staged_withFrame (encode_length_le i) s, rfl⟩

theorem axleDone_next {on off ton toff : U32} (h : axleDone on off ton toff s = .next t) :
    ∃ r, SessionWrites s t r ∧ r.sess = .passbyOff ∧ r.pbStarted = true := by
  simp only [axleDone, execMsgAxle_eq, execMsgStart_eq] at h
  split_ifs at h with hp
  · cases h
    exact ⟨_, .report _ _ _, rfl, hp⟩
  · cases h
    exact ⟨_, .report _ _ _, rfl, rfl⟩

theorem sensorError_next {off : U32} (h : sensorError off s = .next t) :
    ∃ r, SessionWrites s t r ∧ r.sess = .error ∧ r.pbStarted = s.ss.pbStarted := by
  simp only [sensorError, execMsgAxleErr_eq] at h
  cases h
  exact ⟨_, .report _ _ _, rfl, rfl⟩

theorem passbyStopped_next (h : passbyStopped s = .next t) :
    ∃ r, SessionWrites s t r ∧ r.sess = .rdy ∧ r.pbStarted = false := by
  simp only [passbyStopped, execMsgStop_eq] at h
  cases h
  exact ⟨_, .report _ s.ss _, rfl, rfl⟩

theorem sensorRecovered_writes (s : State) :
    ∃ r, SessionWrites s (sensorRecovered s) r ∧ r.pbStarted = s.ss.pbStarted ∧
      ((s.ss.pbStarted = true ∧ r.sess = .passbyOff) ∨
        (s.ss.pbStarted = false ∧ r.sess = .rdy)) := by
  simp only [sensorRecovered]
  split_ifs with hp
  · exact ⟨_, .silent _, rfl, .inl ⟨hp, rfl⟩⟩
  · exact ⟨_, .silent _, rfl, .inr ⟨by simpa using hp, rfl⟩⟩

theorem armedStep_rdy (h : s.ss.sess = .rdy) :
    armedStep ev s = match ev with
      | .wOn => .next (firstWheel s)
      | _ => .next s := by
  unfold armedStep
  rw [h]
  cases ev <;> rfl

theorem armedStep_passbyOn (h : s.ss.sess = .passbyOn) :
    armedStep ev s = match ev with
      | .wAxle on off ton toff => axleDone on off ton toff s
      | .wErr off => sensorError off s
      | _ => .next s := by
  unfold armedStep
  rw [h]
  cases ev <;> rfl

theorem armedStep_passbyOff (h : s.ss.sess = .passbyOff) :
    armedStep ev s = match ev with
      | .wOn => .next (s.setSession .passbyOn)
      | .wStop => passbyStopped s
      | _ => .next s := by
  unfold armedStep
  rw [h]
  cases ev <;> rfl

theorem armedStep_error (h : s.ss.sess = .error) :
    armedStep ev s = match ev with
      | .wRec => .next (sensorRecovered s)
      | _ => .next s := by
  unfold armedStep
  rw [h]
  cases ev <;> rfl

/-- The four armed states (R45). -/
theorem armed_iff {v : Session} :
    v.armed = true ↔ v = .rdy ∨ v = .passbyOn ∨ v = .passbyOff ∨ v = .error := by
  cases v <;> simp [Session.armed]

/-- An armed state with `arm_in = 1` stays armed, whatever the event (R190). -/
theorem armedStep_writes (ha : s.ss.sess.armed = true) (h : armedStep ev s = .next t) :
    ∃ r, SessionWrites s t r ∧ r.sess.armed = true := by
  have hskip : ∃ r, SessionWrites s s r ∧ r.sess.armed = true := ⟨s.ss, .silent _, ha⟩
  rcases armed_iff.mp ha with hs | hs | hs | hs
  · rw [armedStep_rdy hs] at h
    split at h <;> cases h
    · exact ⟨_, .silent _, rfl⟩
    · exact hskip
  · rw [armedStep_passbyOn hs] at h
    split at h
    · obtain ⟨r, hw, hr, -⟩ := axleDone_next h
      exact ⟨r, hw, by rw [hr]; rfl⟩
    · obtain ⟨r, hw, hr, -⟩ := sensorError_next h
      exact ⟨r, hw, by rw [hr]; rfl⟩
    · cases h
      exact hskip
  · rw [armedStep_passbyOff hs] at h
    split at h
    · cases h
      exact ⟨_, .silent _, rfl⟩
    · obtain ⟨r, hw, hr, -⟩ := passbyStopped_next h
      exact ⟨r, hw, by rw [hr]; rfl⟩
    · cases h
      exact hskip
  · rw [armedStep_error hs] at h
    split at h <;> cases h
    · obtain ⟨r, hw, -, ⟨-, hr⟩ | ⟨-, hr⟩⟩ := sensorRecovered_writes s
      · exact ⟨r, hw, by rw [hr]; rfl⟩
      · exact ⟨r, hw, by rw [hr]; rfl⟩
    · exact hskip

/-- The session follows the wheel: an armed session coupled to the wheel as it was is coupled to the
wheel as it is once the event has been handled (R190, R50(b) to (e)). -/
theorem armedStep_coupled {w : Wheel} (ha : s.ss.sess.armed = true) (hc : Coupled s.ss w)
    (hm : WheelMove w ev s.wh.wheel) (h : armedStep ev s = .next t) :
    Coupled t.ss t.wh.wheel := by
  rcases armed_iff.mp ha with hs | hs | hs | hs
  · obtain ⟨hw, hp⟩ := (coupled_rdy hs).mp hc
    rw [armedStep_rdy hs] at h
    rcases hm.of_absent hw with ⟨hw', rfl | rfl⟩ | ⟨hw', rfl⟩ <;> cases h
    · exact (coupled_rdy hs).mpr ⟨hw', hp⟩
    · exact (coupled_rdy hs).mpr ⟨hw', hp⟩
    · exact (coupled_passbyOn rfl).mpr (.inl hw')
  · have hw := (coupled_passbyOn hs).mp hc
    rw [armedStep_passbyOn hs] at h
    rcases hm.of_present hw with ⟨hw', rfl⟩ | ⟨hw', on, off, ton, toff, rfl⟩ | ⟨hw', off, rfl⟩
    · cases h
      exact (coupled_passbyOn hs).mpr hw'
    · obtain ⟨r, ⟨x, -, rfl⟩, hr, hrp⟩ := axleDone_next h
      exact (coupled_passbyOff hr).mpr ⟨.inl hw', hrp⟩
    · obtain ⟨r, ⟨x, -, rfl⟩, hr, -⟩ := sensorError_next h
      exact (coupled_error hr).mpr hw'
  · obtain ⟨hw, hp⟩ := (coupled_passbyOff hs).mp hc
    rw [armedStep_passbyOff hs] at h
    rcases hm.of_absent hw with ⟨hw', rfl | rfl⟩ | ⟨hw', rfl⟩
    · cases h
      exact (coupled_passbyOff hs).mpr ⟨hw', hp⟩
    · obtain ⟨r, ⟨x, -, rfl⟩, hr, hrp⟩ := passbyStopped_next h
      exact (coupled_rdy hr).mpr ⟨hw', hrp⟩
    · cases h
      exact (coupled_passbyOn rfl).mpr (.inl hw')
  · obtain rfl := (coupled_error hs).mp hc
    rw [armedStep_error hs] at h
    rcases hm.of_onError with ⟨hw', rfl⟩ | ⟨hw', rfl⟩ <;> cases h
    · exact (coupled_error hs).mpr hw'
    · obtain ⟨r, ⟨x, -, ht⟩, hrp, ⟨hp, hr⟩ | ⟨hp, hr⟩⟩ := sensorRecovered_writes s <;> rw [ht]
      · exact (coupled_passbyOff hr).mpr ⟨.inl hw', hrp.trans hp⟩
      · exact (coupled_rdy hr).mpr ⟨.inl hw', hrp.trans hp⟩

theorem disarm_next (h : disarm s = .next t) :
    ∃ x, Staged s.tx x ∧ t = { s with
      ss := { s.ss with axleCount := 0, pbStarted := false, sess := .idle }
      ind := { axle := false, error := false }
      tx := x } := by
  simp only [disarm, execMsgStop_eq] at h
  split_ifs at h
  · cases h
    exact ⟨_, staged_withFrame (encode_length_le (.msgStop _ _)) s, rfl⟩
  · cases h
    exact ⟨_, .inl rfl, rfl⟩

/-- Everything the session phase can do (R190): arm, change between IDLE and SLEEP or stay, disarm,
handle the event while armed. -/
theorem sessionPhase_next (h : sessionPhase inp ev s = .next t) :
    (s.ss.sess = .idle ∧ ∃ u, msSetup s.cfg.sumLen.toNat s = .next u ∧
      t = u.clearForArm.setSession .rdy) ∨
    (s.ss.sess.armed = false ∧ ∃ v, (v = .idle ∨ v = .sleep) ∧ t = s.setSession v) ∨
    (s.ss.sess.armed = true ∧ disarm s = .next t) ∨
    (s.ss.sess.armed = true ∧ armedStep ev s = .next t) := by
  have harmed (h : (if inp.armIn then armedStep ev s else disarm s) = .next t) :
      disarm s = .next t ∨ armedStep ev s = .next t := by
    split_ifs at h
    · exact .inr h
    · exact .inl h
  have hstay (v : Session) (hv : s.ss.sess = v) : s = s.setSession v := by rw [← hv]; rfl
  unfold sessionPhase at h
  cases hs : s.ss.sess <;> rw [hs] at h
  case idle =>
    dsimp only at h
    split_ifs at h
    · obtain ⟨u, hu, h⟩ := andThen_next_iff.mp h
      obtain ⟨v, hv, hu⟩ := andThen_next_iff.mp hu
      cases hu
      cases h
      exact .inl ⟨rfl, v, hv, rfl⟩
    · cases h
      exact .inr (.inl ⟨rfl, _, .inr rfl, rfl⟩)
    · cases h
      exact .inr (.inl ⟨rfl, _, .inl rfl, hstay _ hs⟩)
  case sleep =>
    dsimp only at h
    split_ifs at h <;> cases h
    · exact .inr (.inl ⟨rfl, _, .inr rfl, hstay _ hs⟩)
    · exact .inr (.inl ⟨rfl, _, .inl rfl, rfl⟩)
  case unused6 => cases h
  case unused7 => cases h
  all_goals
    rcases harmed h with hd | ha
    · exact .inr (.inr (.inl ⟨rfl, hd⟩))
    · exact .inr (.inr (.inr ⟨rfl, ha⟩))

end

end Sys2Proof.Machine

/-! PROOFS. The invariant of the block (10_state R36, R46, R50) across the four phases of a step,
and the statements about power-on and a whole step. -/

namespace Sys2Proof.Machine

/-- The part of the invariant that holds between any two phases of a step: all of it but the
coupling of the session to the wheel, which an event breaks until the session phase has handled it. -/
structure PhaseInv (s : State) : Prop where
  par : ParamsOk s.par
  cfg : s.cfg.Legal
  enc : EncodingInv s
  deb : DebounceInv s
  tx : s.tx.Sound
  filter : s.ss.sess.armed = true → s.ms.Window s.cfg.sumLen.toNat
  msBuf : s.ms.buf.wf Config.maxWindow = true
  ind : IndicatorInv s
  dec : DecoderInv s

theorem filterInv_iff {s : State} :
    FilterInv s ↔ (s.ss.sess.armed = true → s.ms.Window s.cfg.sumLen.toNat) := Iff.rfl

theorem inv_iff {s : State} : Inv s ↔ PhaseInv s ∧ Coupled s.ss s.wh.wheel := by
  constructor
  · rintro ⟨hpar, hcfg, henc, hsess, hdeb, hstag, hfil, hind, hdec, hms, htx, -⟩
    exact ⟨⟨hpar, configInv_iff.mp hcfg, henc, hdeb, ⟨hstag, htx⟩, filterInv_iff.mp hfil, hms, hind,
      hdec⟩, sessionInv_iff.mp hsess⟩
  · rintro ⟨⟨hpar, hcfg, henc, hdeb, ⟨hstag, htx⟩, hfil, hms, hind, hst, hlen, hbuf⟩, hsess⟩
    exact ⟨hpar, configInv_iff.mpr hcfg, henc, sessionInv_iff.mpr hsess, hdeb, hstag,
      filterInv_iff.mpr hfil, hind, ⟨hst, hlen, hbuf⟩, hms, htx, hbuf⟩

theorem indicatorInv_armed {s : State} (h : s.ss.sess.armed = true) :
    IndicatorInv s ↔ IndicatorsFollow s.wh.wheel s.ind := by
  simp [IndicatorInv, IndicatorsFollow, h]

theorem indicatorInv_unarmed {s : State} (h : s.ss.sess.armed = false) :
    IndicatorInv s ↔ s.ind.axle = false ∧ s.ind.error = false := by
  simp [IndicatorInv, h]

theorem off_bits_le : Wheel.off.bits.toNat ≤ 4 := by decide

theorem armed_bits_le {v : Session} (h : v.armed = true) : v.bits.toNat ≤ 5 := by
  rcases armed_iff.mp h with rfl | rfl | rfl | rfl <;> decide

theorem unarmed_bits_le {v : Session} (h : v = .idle ∨ v = .sleep) : v.bits.toNat ≤ 5 := by
  rcases h with rfl | rfl <;> decide

section
variable {inp : Inputs} {s t : State} {ev : WheelEvent}

theorem PhaseInv.beginStep (h : PhaseInv s) : PhaseInv s.beginStep :=
  ⟨h.par, h.cfg, h.enc, h.deb, h.tx, h.filter, h.msBuf, h.ind, h.dec⟩

/-! The wheel phase. -/

theorem wheelMovsum_keeps (hs : PhaseInv s) (ha : s.ss.sess.armed = true)
    (hf : s.par.frontend = .movsum) (h : wheelMovsum inp s = .next (t, ev)) : PhaseInv t := by
  obtain ⟨hwheel, hprev, hcnt, harm, hstop⟩ := wheelMovsum_registers h
  obtain ⟨u, hrun, hrow⟩ := wheelMovsum_row h
  obtain ⟨hwin, hbuf⟩ := msRun_window (hs.filter ha) hs.msBuf hrun
  obtain ⟨m, rfl⟩ := msRun_frame hrun
  have hind := hrow.ind ((indicatorInv_armed ha).mp hs.ind)
  have hbits := hrow.move.bits_le
  obtain ⟨w, i, ht⟩ := hrow.frame
  cases ht
  obtain ⟨-, hsess, -⟩ := hs.enc
  obtain ⟨hmov, -⟩ := debounceInv_iff.mp hs.deb
  obtain ⟨h1, h2, h3, h4⟩ := hmov hf
  exact {
    par := hs.par
    cfg := hs.cfg
    enc := ⟨hbits, hsess, fun _ => hwheel⟩
    deb := ⟨fun _ => ⟨hprev.trans h1, hcnt.trans h2, harm.trans h3, hstop.trans h4⟩,
      fun hd => by simp [hf] at hd⟩
    tx := hs.tx
    filter := fun _ => hwin
    msBuf := hbuf
    ind := (indicatorInv_armed (by exact ha)).mpr hind
    dec := hs.dec }

theorem wheelDebounce_keeps (hs : PhaseInv s) (ha : s.ss.sess.armed = true)
    (hf : s.par.frontend = .debounce) (h : wheelDebounce inp s = .next (t, ev)) : PhaseInv t := by
  obtain ⟨-, hsess, -⟩ := hs.enc
  obtain ⟨-, hdeb⟩ := debounceInv_iff.mp hs.deb
  have hedge := wheelDebounce_edge h hs.par (hdeb hf ha)
  have hrow := wheelDebounce_row h
  have hind := hrow.ind ((indicatorInv_armed ha).mp hs.ind)
  have hbits := hrow.move.bits_le
  obtain ⟨w, i, ht⟩ := hrow.frame
  cases ht
  exact {
    par := hs.par
    cfg := hs.cfg
    enc := ⟨hbits, hsess, fun hm => by simp [hf] at hm⟩
    deb := ⟨fun hm => by simp [hf] at hm, fun _ _ => hedge⟩
    tx := hs.tx
    filter := hs.filter
    msBuf := hs.msBuf
    ind := (indicatorInv_armed (by exact ha)).mpr hind
    dec := hs.dec }

theorem wheelPhase_keeps (hs : PhaseInv s) (h : wheelPhase inp s = .next (t, ev)) : PhaseInv t := by
  rcases wheelPhase_next h with ⟨-, rfl, -⟩ | ⟨ha, hf, hm⟩ | ⟨ha, hf, hd⟩
  · exact hs
  · exact wheelMovsum_keeps hs ha hf hm
  · exact wheelDebounce_keeps hs ha hf hd

/-! The command phase. -/

/-- The command phase writes the configuration, the staging registers and `rx_ack` only (R48). -/
theorem commandPhase_frame (h : commandPhase inp s = .next t) :
    ∃ c x o, t = { s with cfg := c, tx := x, out := o } := by
  rcases commandPhase_next h with ⟨-, rfl⟩ | ⟨-, -, rfl⟩ | ⟨-, -, rfl⟩ | ⟨-, -, rfl⟩ <;>
    exact ⟨_, _, _, rfl⟩

/-- An executed command changes the window only in IDLE, where the filter is not held to it. -/
theorem PhaseInv.answered (hs : PhaseInv s) (hidle : s.ss.sess = .idle) {i : Instr}
    (hw : i.wellFormed = true) :
    PhaseInv (s.answered (configAfter i s.cfg) (replyOf i s.cfg)) where
  par := hs.par
  cfg := configAfter_legal hw hs.cfg
  enc := hs.enc
  deb := hs.deb
  tx := (staged_answered i _ s.cfg s).sound hs.tx
  filter ha := by
    have hna : s.ss.sess.armed = false := by rw [hidle]; rfl
    exact absurd (hna.symm.trans ha) Bool.false_ne_true
  msBuf := hs.msBuf
  ind := hs.ind
  dec := hs.dec

theorem PhaseInv.ackRx (h : PhaseInv s) : PhaseInv s.ackRx :=
  ⟨h.par, h.cfg, h.enc, h.deb, h.tx, h.filter, h.msBuf, h.ind, h.dec⟩

theorem commandPhase_keeps (hs : PhaseInv s) (h : commandPhase inp s = .next t) : PhaseInv t := by
  rcases commandPhase_next h with ⟨-, rfl⟩ | ⟨-, hidle, rfl⟩ | ⟨-, -, rfl⟩ | ⟨-, -, rfl⟩
  · exact hs
  · exact hs.answered hidle (decodeCommand_wellFormed _)
  · exact hs.ackRx
  · exact hs

/-! The session phase. -/

/-- Arming resets everything the armed invariant speaks of (R191). -/
theorem PhaseInv.armed {u : State} (hs : PhaseInv s)
    (h : msSetup s.cfg.sumLen.toNat s = .next u) : PhaseInv (u.clearForArm.setSession .rdy) := by
  obtain ⟨hwin, hbuf⟩ := msSetup_window hs.msBuf h
  obtain ⟨-, hu⟩ := msSetup_next_iff.mp h
  obtain ⟨m, rfl⟩ : ∃ m, u = { s with ms := m } := ⟨_, hu⟩
  exact {
    par := hs.par
    cfg := hs.cfg
    enc := ⟨off_bits_le, armed_bits_le (v := .rdy) rfl, fun _ => .inl rfl⟩
    deb := ⟨fun _ => ⟨rfl, rfl, rfl, rfl⟩, fun _ _ => (edgeInv_off rfl).mpr rfl⟩
    tx := hs.tx
    filter := fun _ => hwin
    msBuf := hbuf
    ind := ⟨rfl, rfl⟩
    dec := hs.dec }

/-- A session phase that does not arm: it may report, and the indicators must fit the session. -/
theorem PhaseInv.withSession (hs : PhaseInv s) {r : SessionRegs} {x : Staging} {i : Indicators}
    (hx : Staged s.tx x) (hbits : r.sess.bits.toNat ≤ 5)
    (harm : r.sess.armed = true → s.ss.sess.armed = true)
    (hi : IndicatorInv { s with ss := r, tx := x, ind := i }) :
    PhaseInv { s with ss := r, tx := x, ind := i } where
  par := hs.par
  cfg := hs.cfg
  enc := by
    obtain ⟨hwheel, -, hmov⟩ := hs.enc
    exact ⟨hwheel, hbits, hmov⟩
  deb := by
    obtain ⟨hmov, hdeb⟩ := hs.deb
    exact ⟨hmov, fun hf ha => hdeb hf (harm ha)⟩
  tx := hx.sound hs.tx
  filter ha := hs.filter (harm ha)
  msBuf := hs.msBuf
  ind := hi
  dec := hs.dec

theorem sessionPhase_keeps (hs : PhaseInv s) (h : sessionPhase inp ev s = .next t) :
    PhaseInv t := by
  rcases sessionPhase_next h with ⟨-, u, hu, rfl⟩ | ⟨hna, v, hv, rfl⟩ | ⟨-, hd⟩ | ⟨ha, hstep⟩
  · exact hs.armed hu
  · have hvna : v.armed = false := by rcases hv with rfl | rfl <;> rfl
    exact hs.withSession (r := { s.ss with sess := v }) (.inl rfl) (unarmed_bits_le hv)
      (fun hva => absurd (hvna.symm.trans hva) Bool.false_ne_true)
      ((indicatorInv_unarmed hvna).mpr ((indicatorInv_unarmed hna).mp hs.ind))
  · obtain ⟨x, hx, rfl⟩ := disarm_next hd
    exact hs.withSession hx (unarmed_bits_le (.inl rfl))
      (fun h => absurd h Bool.false_ne_true) ⟨rfl, rfl⟩
  · obtain ⟨r, ⟨x, hx, rfl⟩, hr⟩ := armedStep_writes ha hstep
    exact hs.withSession hx (armed_bits_le hr) (fun _ => ha)
      ((indicatorInv_armed hr).mpr ((indicatorInv_armed ha).mp hs.ind))

/-- The session phase restores the coupling that the wheel phase's event has broken. -/
theorem sessionPhase_coupled {w : Wheel} (h : sessionPhase inp ev s = .next t)
    (hc : Coupled s.ss w) (hm : s.ss.sess.armed = true → WheelMove w ev s.wh.wheel) :
    Coupled t.ss t.wh.wheel := by
  rcases sessionPhase_next h with ⟨-, u, -, rfl⟩ | ⟨hna, v, hv, rfl⟩ | ⟨-, hd⟩ | ⟨ha, hstep⟩
  · exact (coupled_rdy rfl).mpr ⟨.inl rfl, rfl⟩
  · have hvna : v.armed = false := by rcases hv with rfl | rfl <;> rfl
    exact (coupled_unarmed hvna).mpr ((coupled_unarmed hna).mp hc)
  · obtain ⟨x, -, rfl⟩ := disarm_next hd
    exact (coupled_unarmed rfl).mpr rfl
  · exact armedStep_coupled ha hc (hm ha) hstep

/-- The session phase leaves the parameters, the configuration, the decoder, the output ports and
the host side alone (R48). -/
theorem sessionPhase_frame (h : sessionPhase inp ev s = .next t) :
    ∃ m w i r x, t = { s with ms := m, wh := w, ind := i, ss := r, tx := x } := by
  rcases sessionPhase_next h with ⟨-, u, hu, rfl⟩ | ⟨-, v, -, rfl⟩ | ⟨-, hd⟩ | ⟨ha, hstep⟩
  · obtain ⟨-, rfl⟩ := msSetup_next_iff.mp hu
    exact ⟨_, _, _, _, _, rfl⟩
  · exact ⟨_, _, _, _, _, rfl⟩
  · obtain ⟨x, -, rfl⟩ := disarm_next hd
    exact ⟨_, _, _, _, _, rfl⟩
  · obtain ⟨r, ⟨x, -, rfl⟩, -⟩ := armedStep_writes ha hstep
    exact ⟨_, _, _, _, _, rfl⟩

/-! The transmit phase. -/

theorem PhaseInv.sendByte (h : PhaseInv s) (hlen : s.tx.len ≠ 0) : PhaseInv s.sendByte :=
  ⟨h.par, h.cfg, h.enc, h.deb, sendByte_sound h.tx hlen, h.filter, h.msBuf, h.ind, h.dec⟩

theorem sends_iff :
    sends inp s = true ↔ (s.ss.sess ≠ .sleep ∧ s.tx.len ≠ 0) ∧ inp.txReady = true := by
  simp [sends]

theorem transmitPhase_keeps (hs : PhaseInv s) (h : transmitPhase inp s = .next t) :
    PhaseInv t := by
  rcases transmitPhase_next_iff.mp h with ⟨hsend, -, rfl⟩ | ⟨-, rfl⟩
  · obtain ⟨⟨-, hlen⟩, -⟩ := sends_iff.mp hsend
    exact hs.sendByte hlen
  · exact hs

/-- The transmit phase writes the staging registers and the sent byte only (R48). -/
theorem transmitPhase_frame (h : transmitPhase inp s = .next t) :
    ∃ x b, t = { s with tx := x, out := { s.out with tx := b } } := by
  rcases transmitPhase_next_iff.mp h with ⟨-, -, rfl⟩ | ⟨-, rfl⟩ <;> exact ⟨_, _, rfl⟩

/-! The step. -/

/-- A step that completes is four phases that complete, from the start state on the sampled inputs
(R290). -/
theorem step_next (h : step s = .next t) :
    ∃ a ev b c, wheelPhase s.inputs s.beginStep = .next (a, ev) ∧
      commandPhase s.inputs a = .next b ∧ sessionPhase s.inputs ev b = .next c ∧
      transmitPhase s.inputs c = .next t :=
  tickWith_next_iff.mp h

/-- Settles O3: each phase keeps `PhaseInv`; the wheel moves by a row of R170, the command phase
leaves session and wheel alone, and the session phase follows the wheel by the event. -/
theorem stepKeepsBlockInvariant : Obligations.StepKeepsBlockInvariant := by
  intro s t hs h
  obtain ⟨hinv, hc⟩ := inv_iff.mp hs
  obtain ⟨a, ev, b, c, hwheel, hcmd, hsess, htx⟩ := step_next h
  have ha := wheelPhase_keeps hinv.beginStep hwheel
  have hb := commandPhase_keeps ha hcmd
  have ht := transmitPhase_keeps (sessionPhase_keeps hb hsess) htx
  refine inv_iff.mpr ⟨ht, ?_⟩
  have hmove := wheelPhase_move hwheel
  obtain ⟨m, w, i, rfl⟩ := wheelPhase_frame hwheel
  obtain ⟨cfg, x, o, rfl⟩ := commandPhase_frame hcmd
  have hcoupled := sessionPhase_coupled (w := s.wh.wheel) hsess hc hmove
  obtain ⟨y, byte, rfl⟩ := transmitPhase_frame htx
  exact hcoupled

/-- Settles O54: only the command phase writes the configuration, and outside IDLE, or without a
byte, it does not. -/
theorem configurationChangesOnlyInIdle : Obligations.ConfigurationChangesOnlyInIdle := by
  intro s t h hno
  obtain ⟨a, ev, b, c, hwheel, hcmd, hsess, htx⟩ := step_next h
  obtain ⟨m, w, i, rfl⟩ := wheelPhase_frame hwheel
  obtain ⟨_, _, _, _, _, rfl⟩ := sessionPhase_frame hsess
  obtain ⟨y, byte, rfl⟩ := transmitPhase_frame htx
  rcases commandPhase_next hcmd with ⟨-, rfl⟩ | ⟨hv, hidle, -⟩ | ⟨-, -, rfl⟩ | ⟨-, -, rfl⟩
  · rfl
  · exact absurd ⟨hidle, hv⟩ hno
  · rfl
  · rfl

theorem indStatus_armed (h : s.ss.sess.armed = true) : s.indStatus = true := by
  rcases armed_iff.mp h with hs | hs | hs | hs <;> simp [State.indStatus, hs]

theorem indStatus_sleep (h : s.ss.sess = .sleep) : s.indStatus = false := by
  simp [State.indStatus, h]

/-- The command phase acknowledges exactly an offered byte outside SLEEP (R293). -/
theorem commandPhase_rxAck (h : commandPhase inp s = .next t) (h0 : s.out.rxAck = false) :
    t.out.rxAck = true ↔ inp.rxValid = true ∧ s.ss.sess ≠ .sleep := by
  rcases commandPhase_next h with ⟨hv, rfl⟩ | ⟨hv, hs, rfl⟩ | ⟨hv, hs, rfl⟩ | ⟨hv, hs, rfl⟩
  · simp [h0, hv]
  · simp [hv, hs, State.answered, State.pending]
  · have hne : s.ss.sess ≠ .sleep := fun he => by simp [he, Session.armed] at hs
    simp [hv, hne]
  · simp [h0, hs]

/-- The command phase sends nothing. -/
theorem commandPhase_sent (h : commandPhase inp s = .next t) : t.out.tx = s.out.tx := by
  rcases commandPhase_next h with ⟨-, rfl⟩ | ⟨-, -, rfl⟩ | ⟨-, -, rfl⟩ | ⟨-, -, rfl⟩ <;> rfl

/-- A byte leaves only with the transmitter ready and outside SLEEP (R298). -/
theorem transmitPhase_sent (h : transmitPhase inp s = .next t) (h0 : s.out.tx = none)
    (hsent : t.out.tx ≠ none) : inp.txReady = true ∧ t.ss.sess ≠ .sleep := by
  rcases transmitPhase_next_iff.mp h with ⟨hsend, -, rfl⟩ | ⟨-, rfl⟩
  · obtain ⟨⟨hsess, -⟩, hready⟩ := sends_iff.mp hsend
    exact ⟨hready, hsess⟩
  · exact absurd h0 hsent

/-- Settles O56: `rx_ack` is the command phase's, the sent byte the transmit phase's. -/
theorem portsOfAStep : Obligations.PortsOfAStep := by
  intro s t h
  obtain ⟨a, ev, b, c, hwheel, hcmd, hsess, htx⟩ := step_next h
  obtain ⟨m, w, i, rfl⟩ := wheelPhase_frame hwheel
  have hack := commandPhase_rxAck hcmd rfl
  have hnone := commandPhase_sent hcmd
  obtain ⟨_, _, _, _, _, rfl⟩ := sessionPhase_frame hsess
  refine ⟨?_, transmitPhase_sent htx hnone, indStatus_armed, indStatus_sleep⟩
  obtain ⟨y, byte, rfl⟩ := transmitPhase_frame htx
  exact hack

end

/-- Settles O1: the values are those of the reset tables. -/
theorem powerOnRegisterValues : Obligations.PowerOnRegisterValues := by
  rintro p s rfl
  simp [State.resetWith]

/-- Nothing is armed, staged or received at power-on, so only the configuration needs the
constraints on the parameters. -/
theorem resetWith_phaseInv {p : Params} (h : ParamsOk p) : PhaseInv (State.resetWith p) where
  par := h
  cfg := by
    obtain ⟨-, -, -, -, -, hlen, hon, hoff⟩ := h
    exact ⟨hlen, hon, hoff⟩
  enc := ⟨off_bits_le, unarmed_bits_le (.inl rfl), fun _ => .inl rfl⟩
  deb := ⟨fun _ => ⟨rfl, rfl, rfl, rfl⟩, fun _ ha => absurd ha Bool.false_ne_true⟩
  tx := ⟨⟨Nat.zero_le _, .inl rfl⟩, rfl⟩
  filter ha := absurd ha Bool.false_ne_true
  msBuf := rfl
  ind := ⟨rfl, rfl⟩
  dec := ⟨nofun, Nat.zero_le _, rfl⟩

/-- Settles O2. -/
theorem powerOnMeetsBlockInvariant : Obligations.PowerOnMeetsBlockInvariant := by
  intro p h
  exact inv_iff.mpr ⟨resetWith_phaseInv h, (coupled_unarmed rfl).mpr rfl⟩

/-- Settles O6, by whether a sample is already scheduled for the next step. -/
theorem fetchWordIsOffered : Obligations.FetchWordIsOffered := by
  intro s nbits w
  simp only [State.withFetchWord, State.offerByte]
  cases hstim : s.host.stim with
  | nil => exact ⟨rfl, rfl, rfl, rfl⟩
  | cons i rest => exact ⟨rfl, rfl, rfl, rfl⟩

end Sys2Proof.Machine

/-! PROOFS. Decoding and encoding (30_encoding): the ten command classes. -/

namespace Sys2Proof

section
variable {b : Byte}

theorem decodeCommand_echo (h : 240 ≤ b.toNat) : decodeCommand b = .echo b := if_pos h

theorem decodeCommand_setErr (h : 61 ≤ b.toNat ∧ b.toNat ≤ 64) :
    decodeCommand b = .setErr (b - 61) := by
  rw [decodeCommand, if_neg (by omega), if_pos h]

theorem decodeCommand_setOff (h : 40 ≤ b.toNat ∧ b.toNat ≤ 59) :
    decodeCommand b = .setOff (b - 40) := by
  rw [decodeCommand, if_neg (by omega), if_neg (by omega), if_pos h]

theorem decodeCommand_setOn (h : 20 ≤ b.toNat ∧ b.toNat ≤ 39) :
    decodeCommand b = .setOn (b - 20) := by
  rw [decodeCommand, if_neg (by omega), if_neg (by omega), if_neg (by omega), if_pos h]

theorem decodeCommand_setLen (h : 11 ≤ b.toNat ∧ b.toNat ≤ 15) :
    decodeCommand b = .setLen (b - 10) := by
  rw [decodeCommand, if_neg (by omega), if_neg (by omega), if_neg (by omega), if_neg (by omega),
    if_pos h]

theorem invalidByte_iff : invalidByte b = true ↔
    b.toNat = 0 ∨ (5 ≤ b.toNat ∧ b.toNat ≤ 10) ∨ (16 ≤ b.toNat ∧ b.toNat ≤ 19) ∨ b.toNat = 60 ∨
      (65 ≤ b.toNat ∧ b.toNat ≤ 239) := by
  simp [invalidByte, or_assoc]

/-- The INVALID class is what the nine classes above it leave (R101). -/
theorem decodeCommand_invalid (h : invalidByte b = true) : decodeCommand b = .invalid b := by
  rw [invalidByte_iff] at h
  rw [decodeCommand, if_neg (by omega), if_neg (by omega), if_neg (by omega), if_neg (by omega),
    if_neg (by omega), if_neg (by omega), if_neg (by omega), if_neg (by omega), if_neg (by omega)]

end

/-- Settles O7, by evaluating the decoder. -/
theorem sampleBytesDecode : Obligations.SampleBytesDecode := by
  unfold Obligations.SampleBytesDecode
  decide

/-- Settles O8, a class at a time. -/
theorem commandClassRanges : Obligations.CommandClassRanges := by
  intro b
  refine ⟨decodeCommand_echo, decodeCommand_setErr, decodeCommand_setOff, decodeCommand_setOn,
    fun h => ⟨decodeCommand_setLen h, ?_⟩,
    fun h => congrArg decodeCommand (BitVec.eq_of_toNat_eq (y := 1) h),
    fun h => congrArg decodeCommand (BitVec.eq_of_toNat_eq (y := 2) h),
    fun h => congrArg decodeCommand (BitVec.eq_of_toNat_eq (y := 3) h),
    fun h => congrArg decodeCommand (BitVec.eq_of_toNat_eq (y := 4) h),
    fun h => decodeCommand_invalid (invalidByte_iff.mpr h)⟩
  have he : (b - 10).toNat = b.toNat - 10 := by bv_omega
  rw [Machine.windowOfExponent_toNat (by omega), he]

/-! Encoding what was decoded. -/

/-- Each class gives its byte back: a ranged operand returns to its base. -/
theorem encode_decodeCommand (b : Byte) : encode (decodeCommand b) = [b] := by
  simp only [decodeCommand]
  split_ifs with _ _ _ _ _ h1 h2 h3 h4
  · rfl
  · exact congrArg ([·]) (add_sub_cancel 61 b)
  · exact congrArg ([·]) (add_sub_cancel 40 b)
  · exact congrArg ([·]) (add_sub_cancel 20 b)
  · exact congrArg ([·]) (add_sub_cancel 10 b)
  · exact congrArg ([·]) (BitVec.eq_of_toNat_eq (x := 1) h1.symm)
  · exact congrArg ([·]) (BitVec.eq_of_toNat_eq (x := 2) h2.symm)
  · exact congrArg ([·]) (BitVec.eq_of_toNat_eq (x := 3) h3.symm)
  · exact congrArg ([·]) (BitVec.eq_of_toNat_eq (x := 4) h4.symm)
  · rfl

/-- A duration byte scaled up and down again is itself: 10 bits do not leave the word. -/
theorem setWidth_scaled_up (d : Byte) : (((d.setWidth 32 <<< 2) >>> 2).setWidth 8 : Byte) = d := by
  apply BitVec.eq_of_toNat_eq
  simp [Nat.shiftRight_eq_div_pow, Nat.shiftLeft_eq]
  omega

/-- A payload that decodes has the layout of its header, and the decoder reads each field off where
the encoder puts it (R110). The layouts the decoder rejects contradict the hypothesis; the eleven
that remain stand in the order of the header table. -/
theorem encode_of_decodePayload {h : Byte} {t : List Byte} {i : Instr} :
    decodePayload h t = .instr i → i.wellFormed = true ∧ encode i = h :: t := by
  fun_cases decodePayload h t <;> intro hd <;> cases hd <;> subst_vars
  · refine ⟨rfl, ?_⟩
    rw [encode, setWidth_scaled_up, unscale_eq_some ‹unscale _ = some _›, le32_fromLe32]
  · refine ⟨rfl, ?_⟩
    rw [encode, unscale_eq_some ‹unscale _ = some _›, le32_fromLe32]
  iterate 6 exact ⟨rfl, rfl⟩
  · refine ⟨rfl, ?_⟩
    rw [encode, le16_fromLe16, le32_fromLe32]
    rfl
  · refine ⟨rfl, ?_⟩
    rw [encode, le16_fromLe16, le16_fromLe16]
    rfl
  · exact ⟨‹echoByte _ = true›, rfl⟩

/-- Settles O10, by the length that tells a command from a payload (R100). -/
theorem encodeOfDecode : Obligations.EncodeOfDecode := by
  intro l i hd
  match l, hd with
  | [b], hd =>
    cases hd
    exact ⟨Machine.decodeCommand_wellFormed b, encode_decodeCommand b⟩
  | _ :: _ :: _, hd => exact encode_of_decodePayload hd

/-! Decoding what was encoded. -/

/-- A command's byte falls in the command's own class (R101), and a ranged operand comes back off
its base. -/
theorem decode_encode_command {i : Instr} (hi : Machine.isCommand i = true)
    (hw : i.wellFormed = true) : decode (encode i) = .instr i := by
  cases i <;> cases hi <;>
    simp only [Instr.wellFormed, echoByte, decide_eq_true_eq, Bool.and_eq_true] at hw <;>
    refine congrArg Decoded.instr ?_
  case echo c => exact decodeCommand_echo hw
  case setErr v => rw [decodeCommand_setErr (by bv_omega), add_sub_cancel_left]
  case setOff v => rw [decodeCommand_setOff (by bv_omega), add_sub_cancel_left]
  case setOn v => rw [decodeCommand_setOn (by bv_omega), add_sub_cancel_left]
  case setLen e => rw [decodeCommand_setLen (by bv_omega), add_sub_cancel_left]
  case invalid b => exact decodeCommand_invalid hw
  all_goals rfl

/-- A message's fields come back from its payload; of an axle message, what the wire keeps. -/
theorem decode_encode_message {i : Instr} (hi : Machine.isCommand i = false)
    (hw : i.wellFormed = true) : decode (encode i) = .instr (onWire i) := by
  cases i with
  | msgAxle on off =>
    simp [encode, decode, decodePayload, onWire, le32, fromLe32_le32, unscale_scaled]
  | msgAxleErr off =>
    simp [encode, decode, decodePayload, onWire, le32, fromLe32_le32, unscale_scaled]
  | msgStart pid ts =>
    simp [encode, decode, decodePayload, onWire, le16, le32, fromLe16_le16, fromLe32_le32]
  | msgStop pid n => simp [encode, decode, decodePayload, onWire, le16, fromLe16_le16]
  | msgEcho c => exact if_pos hw
  | msgSetupOk | msgSetupErr | msgRepOn | msgRepOff | msgRepErr | msgRepLen => rfl
  | _ => cases hi

/-- Only the axle messages lose anything on the wire. -/
theorem onWire_of_not_axle {i : Instr} (haxle : ∀ on off, i ≠ .msgAxle on off)
    (herr : ∀ off, i ≠ .msgAxleErr off) : onWire i = i := by
  cases i with
  | msgAxle on off => exact absurd rfl (haxle on off)
  | msgAxleErr off => exact absurd rfl (herr off)
  | _ => rfl

theorem decode_encode {i : Instr} (hw : i.wellFormed = true) :
    decode (encode i) = .instr (onWire i) := by
  cases hi : Machine.isCommand i with
  | false => exact decode_encode_message hi hw
  | true =>
    have hkeep : onWire i = i := onWire_of_not_axle
      (fun _ _ he => by simp [he, Machine.isCommand] at hi)
      (fun _ he => by simp [he, Machine.isCommand] at hi)
    rw [hkeep]
    exact decode_encode_command hi hw

/-- A multiple of 4 ticks loses nothing by the scaling (R10). -/
theorem scaled_up_of_mod {d : U32} (h : d.toNat % 4 = 0) : (d >>> 2) <<< 2 = d := by
  apply BitVec.eq_of_toNat_eq
  simp [Nat.shiftRight_eq_div_pow, Nat.shiftLeft_eq]
  omega

/-- Below 1024 ticks the scaled duration fits its byte (R240). -/
theorem setWidth_scaled {d : U32} (h : d.toNat < 1024) :
    ((d >>> 2).setWidth 8).setWidth 32 = d >>> 2 := by
  apply BitVec.eq_of_toNat_eq
  simp [Nat.shiftRight_eq_div_pow]
  omega

/-- Settles O9: the round trip by kind of instruction, and what the scaling loses. -/
theorem decodeOfEncode : Obligations.DecodeOfEncode := by
  intro i hw
  refine ⟨decode_encode hw, onWire_of_not_axle, ?_, ?_⟩
  · rintro on off rfl hlt hon hoff
    rw [onWire, setWidth_scaled hlt, scaled_up_of_mod hon, scaled_up_of_mod hoff]
  · rintro off rfl hoff
    rw [onWire, scaled_up_of_mod hoff]

end Sys2Proof

/-! PROOFS. The frame of a payload (43_frame_codec R220). -/

namespace Sys2Proof.Machine

theorem framingByte_iff {b : Byte} :
    framingByte b = true ↔ b = 0x7C ∨ b = 0x7D ∨ b = 0x7E := by
  simp [framingByte, Config.frameStart, Config.frameStop, Config.frameEsc, or_assoc]

theorem escaped_eq_flatMap (p : List Byte) :
    escaped p =
      p.flatMap fun x => if x = 0x7C ∨ x = 0x7D ∨ x = 0x7E then [0x7E, x] else [x] := by
  induction p with
  | nil => rfl
  | cons b t ih =>
    rw [escaped, List.flatMap_cons, ih]
    simp only [framingByte_iff]
    split_ifs
    · rfl
    · rfl

/-- Settles O26: the escaping, which the model defines by recursion, works byte by byte. -/
theorem frameBytes : Obligations.FrameBytes := by
  intro p
  rw [frameEncode, escaped_eq_flatMap]
  rfl

end Sys2Proof.Machine

/-! PROOFS. Sequences of commands in IDLE (30_encoding R113). -/

namespace Sys2Proof.Machine

/-- Commands run in IDLE stay there, and each writes the configuration the one before it left. -/
theorem execAll_idle (l : List Instr)
    (hl : ∀ i ∈ l, isCommand i = true ∧ i.wellFormed = true) {s : State} (hs : s.ss.sess = .idle) :
    ∃ t, execAll l s = .next t ∧ t.ss.sess = .idle ∧
      t.cfg = l.foldl (fun c i => configAfter i c) s.cfg := by
  induction l generalizing s with
  | nil => exact ⟨s, rfl, hs, rfl⟩
  | cons i l ih =>
    obtain ⟨⟨hi, hw⟩, hrest⟩ := List.forall_mem_cons.mp hl
    rw [execAll, exec_command_idle hi hw hs]
    exact ih hrest hs

section
variable {c : Cfg} {v e : Byte}

theorem configAfter_setOn (h : thresholdLegal v c.sumLen = true) :
    configAfter (.setOn v) c = { c with thrOn := v } := if_pos h

theorem configAfter_setOff (h : thresholdLegal v c.sumLen = true) :
    configAfter (.setOff v) c = { c with thrOff := v } := if_pos h

theorem configAfter_setLen (hon : thresholdLegal c.thrOn (windowOfExponent e) = true)
    (hoff : thresholdLegal c.thrOff (windowOfExponent e) = true) :
    configAfter (.setLen e) c = { c with sumLen := windowOfExponent e } :=
  if_pos (Bool.and_eq_true_iff.mpr ⟨hon, hoff⟩)

/-- A cleared threshold suits every window that admits any threshold. -/
theorem thresholdLegal_zero {n : Byte} (h : thresholdLegal v n = true) :
    thresholdLegal 0 n = true := by
  rw [thresholdLegal_iff] at *
  exact Nat.zero_lt_of_lt h

/-- Clearing both thresholds first makes any window acceptable (R113). -/
theorem configAfter_configSequence {on off sec : Byte} (hc : c.Legal)
    (hon : thresholdLegal on (windowOfExponent e) = true)
    (hoff : thresholdLegal off (windowOfExponent e) = true) :
    (configSequence e on off sec).foldl (fun c i => configAfter i c) c =
      { sumLen := windowOfExponent e, thrOn := on, thrOff := off, thrErrS := sec } := by
  obtain ⟨-, hcOn, -⟩ := hc
  have hcleared := thresholdLegal_zero hcOn
  have hzero := thresholdLegal_zero hon
  simp only [configSequence, List.foldl_cons, List.foldl_nil, configAfter_setOn, configAfter_setOff,
    configAfter_setLen, hcleared, hzero, hon, hoff]
  rfl

/-- The operands of CONFIG are operands of its six commands (R112): a threshold below half of the
largest window is at most 19. -/
theorem configSequence_wellFormed {on off sec : Byte} (h1 : 1 ≤ e.toNat) (h5 : e.toNat ≤ 5)
    (hon : on.toNat < 2 ^ e.toNat / 2) (hoff : off.toNat < 2 ^ e.toNat / 2)
    (hsec : sec.toNat ≤ 3) :
    ∀ i ∈ configSequence e on off sec, isCommand i = true ∧ i.wellFormed = true := by
  have hpow : 2 ^ e.toNat ≤ 2 ^ 5 := Nat.pow_le_pow_right (by decide) h5
  have hon19 : on.toNat ≤ 19 := by omega
  have hoff19 : off.toNat ≤ 19 := by omega
  simp [configSequence, isCommand, Instr.wellFormed, h1, h5, hon19, hoff19, hsec]

end

/-- Settles O59: the six commands write the configuration one after another, from IDLE. -/
theorem configSequenceConfigures : Obligations.ConfigSequenceConfigures := by
  intro s e on off sec hs hc h1 h5 hon hoff hsec
  have hn := windowOfExponent_toNat h5
  have hwindow : windowOfExponent e = BitVec.ofNat 8 (2 ^ e.toNat) := by
    rw [← hn, BitVec.ofNat_toNat, BitVec.setWidth_eq]
  obtain ⟨t, hrun, -, hcfg⟩ :=
    execAll_idle _ (configSequence_wellFormed h1 h5 hon hoff hsec) hs
  refine ⟨t, hrun, ?_⟩
  rw [hcfg, configAfter_configSequence (configInv_iff.mp hc)
    (thresholdLegal_iff.mpr (hn ▸ hon)) (thresholdLegal_iff.mpr (hn ▸ hoff)), hwindow]

end Sys2Proof.Machine

/-! PROOFS. What `MS_Setup` and `MS_Run` compute (40_movsum R131 to R137). -/

namespace Sys2Proof.Machine

/-- A canonical memory holds nothing at an index outside it. -/
theorem Memory.read_above {w size : Nat} (m : Memory w) {lo a : Nat}
    (hm : Memory.wfFrom size lo m = true) (ha : size ≤ a) : m.read a = 0 := by
  induction m generalizing lo with
  | nil => rfl
  | cons e m ih =>
    obtain ⟨k, v⟩ := e
    obtain ⟨⟨-, hk⟩, -, hrest⟩ := Memory.wfFrom_cons.mp hm
    rw [Memory.read_cons, if_neg (by omega)]
    exact ih hrest

/-- Clearing a whole canonical memory forgets all it held. -/
theorem Memory.clear_eq_nil {w size : Nat} {m : Memory w} (hm : m.wf size = true) :
    m.clear size = [] := by
  have hcleared := Memory.clear_wf hm size le_rfl
  refine Memory.ext_of_read hcleared rfl fun a => ?_
  rcases Nat.lt_or_ge a size with ha | ha
  · exact Memory.read_clear hm ha
  · exact Memory.read_above _ hcleared ha

/-- The filter registers after `MS_Setup(n)` on a canonical buffer (R131). -/
def MovSum.empty (n : Nat) : MovSum := { len := BitVec.ofNat 6 n, sum := 0, idx := 0, buf := [] }

theorem MovSum.empty_len_toNat {n : Nat} (h32 : n ≤ 32) : (MovSum.empty n).len.toNat = n := by
  rw [MovSum.empty, BitVec.toNat_ofNat]
  omega

/-- `MS_Setup` depends on the old filter in nothing (R137). -/
theorem msSetup_eq {n : Nat} {s : State} (h1 : 1 ≤ n) (h32 : n ≤ 32)
    (hbuf : s.ms.buf.wf Config.maxWindow = true) :
    msSetup n s = .next { s with ms := .empty n } := by
  rw [msSetup_next_iff, Memory.clear_eq_nil hbuf]
  exact ⟨⟨h1, h32⟩, rfl⟩

theorem msSetup_refused {n : Nat} (s : State) (h : n = 0 ∨ 32 < n) :
    msSetup n s = .refused (.setupOperand n) := by
  have hcap : Config.maxWindow = 32 := rfl
  exact if_neg (by omega)

/-- Settles O35: by `msSetup_eq`, whatever canonical buffer the filter holds. -/
theorem setupClearsFilter : Obligations.SetupClearsFilter := by
  intro n s hbuf
  refine ⟨fun ⟨h1, h32⟩ => ?_, msSetup_refused s⟩
  exact ⟨{ s with ms := .empty n }, msSetup_eq h1 h32 hbuf, MovSum.empty_len_toNat h32, rfl, rfl,
    Memory.read_nil, rfl, msSetup_eq h1 h32 rfl,
    fun m hm => msSetup_eq (s := { s with ms := m }) h1 h32 hm⟩

theorem msRun_completes (x : Bool) {s : State} (h1 : 1 ≤ s.ms.len.toNat)
    (h32 : s.ms.len.toNat ≤ 32) : ∃ t, msRun x s = .next t :=
  ⟨_, msRun_next_iff.mpr ⟨⟨h1, h32⟩, rfl⟩⟩

/-- The index register holds every index of a legal window. -/
theorem nextIndex_toNat {m : MovSum} (h1 : 1 ≤ m.len.toNat) (h32 : m.len.toNat ≤ 32) :
    (BitVec.ofNat 5 (nextIndex m)).toNat = nextIndex m := by
  have := nextIndex_lt h1
  rw [BitVec.toNat_ofNat]
  omega

/-- Settles O36: the sum stays the buffer's by `msRun_window`, and cannot wrap because the evicted
sample is part of it. -/
theorem runningSumUpdate : Obligations.RunningSumUpdate := by
  intro x s h1 h32 hidx hsum hbuf
  obtain ⟨t, hrun⟩ := msRun_completes x h1 h32
  obtain ⟨⟨hlen, -, hsum'⟩, hbuf'⟩ := msRun_window ⟨rfl, hidx, hsum⟩ hbuf hrun
  have hle : t.ms.sum.toNat ≤ s.ms.len.toNat :=
    hlen ▸ hsum' ▸ bufferSum_le t.ms.buf t.ms.len.toNat
  have hevicted : (s.ms.buf.read (nextIndex s.ms)).toNat ≤ s.ms.sum.toNat :=
    hsum ▸ read_le_bufferSum s.ms.buf (nextIndex_lt h1)
  have hsum32 : s.ms.sum.toNat ≤ 32 :=
    hsum ▸ (bufferSum_le s.ms.buf s.ms.len.toNat).trans h32
  have hnext := nextIndex_toNat h1 h32
  refine ⟨t, hrun, BitVec.eq_of_toNat_eq hlen, ?_⟩
  obtain ⟨-, rfl⟩ := msRun_next_iff.mp hrun
  rw [hnext]
  refine ⟨rfl, ?_, hle, Memory.read_write_same hbuf _ _,
    fun a ha => Memory.read_write_other _ _ _ _ ha, hsum', hbuf', rfl⟩
  rw [sum_update_toNat hevicted hsum32, BitVec.toNat_ofBool]

/-- The filter holds the samples `w`, one for each element of its window and the oldest first: they
stand in the ring from the index that the next sample overwrites on (R133). -/
structure MovSum.Holds (w : List Bool) (m : MovSum) : Prop where
  window : m.Window w.length
  canonical : m.buf.wf Config.maxWindow = true
  sum : m.sum.toNat = w.count true
  ring : ∀ (i : Nat) (x : Bool), w[i]? = some x →
    m.buf.read ((m.idx.toNat + 1 + i) % w.length) = BitVec.ofBool x

/-- An empty filter holds as many zeros as its window is long. -/
theorem MovSum.empty_holds {n : Nat} (h1 : 1 ≤ n) (h32 : n ≤ 32) :
    (MovSum.empty n).Holds (List.replicate n false) := by
  obtain ⟨hwindow, hcanonical⟩ :=
    msSetup_window (s := State.reset) rfl (msSetup_eq h1 h32 rfl)
  refine ⟨by rwa [List.length_replicate], hcanonical, ?_, fun i x hx => ?_⟩
  · simp [MovSum.empty, List.count_replicate]
  · rw [List.eq_of_mem_replicate (List.mem_of_getElem? hx)]
    exact Memory.read_nil _

/-- Fewer than `n` steps round a ring of `n` elements do not lead back. -/
theorem ring_index_ne {k j n : Nat} (hpos : 0 < j) (hlt : j < n) : (k + j) % n ≠ k % n := by
  intro h
  have hj : j ≡ 0 [MOD n] := Nat.ModEq.add_left_cancel' k h
  have := Nat.eq_zero_of_dvd_of_lt (Nat.modEq_zero_iff_dvd.mp hj) hlt
  omega

theorem count_true_cons (y : Bool) (w : List Bool) :
    (y :: w).count true = w.count true + y.toNat := by
  cases y
  · exact List.count_cons_of_ne (by decide)
  · exact List.count_cons_self

/-- `MS_Run` drops the oldest sample and takes the new one in (R133). -/
theorem msRun_holds {y x : Bool} {w : List Bool} {s : State} (hs : s.ms.Holds (y :: w))
    (h32 : w.length < 32) : ∃ t, msRun x s = .next t ∧ t.ms.Holds (w ++ [x]) := by
  obtain ⟨hwindow, hcanonical, hcount, hring⟩ := hs
  obtain ⟨hlen, hidx, hbufsum⟩ := hwindow
  have hlength : (w ++ [x]).length = w.length + 1 := List.length_append
  rw [List.length_cons] at hlen hring
  obtain ⟨t, hrun, -, hidx', hsum, -, hnew, hother, -⟩ :=
    runningSumUpdate x s (by omega) (by omega) hidx hbufsum hcanonical
  obtain ⟨hwindow', hcanonical'⟩ := msRun_window ⟨hlen, hidx, hbufsum⟩ hcanonical hrun
  rw [hlen] at hidx'
  have hevicted : s.ms.buf.read t.ms.idx.toNat = BitVec.ofBool y := hidx' ▸ hring 0 y rfl
  refine ⟨t, hrun, hlength ▸ hwindow', hcanonical', ?_, fun i z hz => ?_⟩
  · rw [hevicted, BitVec.toNat_ofBool, hcount, count_true_cons] at hsum
    rw [List.count_append, count_true_cons, List.count_nil]
    omega
  · have hplace : (t.ms.idx.toNat + 1 + i) % (w.length + 1) =
        (s.ms.idx.toNat + 1 + (i + 1)) % (w.length + 1) := by
      rw [hidx', Nat.add_assoc, Nat.mod_add_mod, Nat.add_comm 1 i]
    rw [hlength, hplace]
    rcases Nat.lt_trichotomy i w.length with hi | rfl | hi
    · have hne := ring_index_ne (k := s.ms.idx.toNat + 1) (Nat.succ_pos i) (Nat.succ_lt_succ hi)
      rw [hother _ (hidx' ▸ hne)]
      rw [List.getElem?_append_left hi] at hz
      exact hring (i + 1) z hz
    · rw [List.getElem?_concat_length] at hz
      rw [Nat.add_mod_right, ← hidx', hnew, Option.some.inj hz]
    · rw [List.getElem?_eq_none (by simpa using hi)] at hz
      cases hz

/-- Each sample of a sequence pushes the oldest one out (R134). -/
theorem msFeed_holds (xs : List Bool) {w : List Bool} {s : State} (hs : s.ms.Holds w)
    (h1 : 1 ≤ w.length) (h32 : w.length ≤ 32) :
    ∃ u, msFeed xs s = .next u ∧ u.ms.Holds ((w ++ xs).drop xs.length) := by
  induction xs generalizing w s with
  | nil => exact ⟨s, rfl, by simpa using hs⟩
  | cons x xs ih =>
    cases w with
    | nil => exact absurd h1 (by decide)
    | cons y w =>
      obtain ⟨t, hrun, ht⟩ := msRun_holds (x := x) hs h32
      obtain ⟨u, hfeed, hu⟩ := ih ht (by simp) (by simpa using h32)
      refine ⟨u, by rw [msFeed, hrun]; exact hfeed, ?_⟩
      simpa using hu

/-- Settles O37: from the zeros of the empty window on, the filter holds the last `n` samples. -/
theorem runningSumIsWindowSum : Obligations.RunningSumIsWindowSum := by
  intro n s xs h1 h32 hbuf
  have hlength : (List.replicate n false).length = n := List.length_replicate
  obtain ⟨u, hfeed, hu⟩ := msFeed_holds xs (s := { s with ms := .empty n })
    (MovSum.empty_holds h1 h32) (hlength.symm ▸ h1) (hlength.symm ▸ h32)
  refine ⟨_, u, msSetup_eq h1 h32 hbuf, hfeed, ?_⟩
  have hzeros : ((List.replicate n false).drop xs.length).count true = 0 := by
    simp [List.drop_replicate, List.count_replicate]
  rw [hu.sum, List.drop_append, List.count_append, hzeros, hlength, Nat.zero_add]

end Sys2Proof.Machine

/-! PROOFS. The wheel phase row by row (41_wheel R150 to R170): which row runs, what it computes, and
what the phase leaves alone. -/

namespace Sys2Proof.Machine

section
variable {inp : Inputs} {s m : State}

theorem wheelPhase_movsum (ha : s.ss.sess.armed = true) (hf : s.par.frontend = .movsum) :
    wheelPhase inp s = wheelMovsum inp s := by
  simp [wheelPhase, ha, hf]

theorem wheelPhase_debounce (ha : s.ss.sess.armed = true) (hf : s.par.frontend = .debounce) :
    wheelPhase inp s = wheelDebounce inp s := by
  simp [wheelPhase, ha, hf]

/-- The debounce front end leaves the filter alone (R48). -/
theorem wheelPhase_debounce_ms {t : State} {ev : WheelEvent} (hf : s.par.frontend = .debounce)
    (h : wheelPhase inp s = .next (t, ev)) : t.ms = s.ms := by
  rcases wheelPhase_next h with ⟨-, rfl, -⟩ | ⟨-, hm, -⟩ | ⟨-, -, hd⟩
  · rfl
  · rw [hf] at hm
    cases hm
  · obtain ⟨w, i, rfl⟩ := (wheelDebounce_row hd).frame
    rfl

/-- The moving-sum front end leaves the debounce registers alone (R40, R48). -/
theorem wheelPhase_movsum_registers {t : State} {ev : WheelEvent}
    (hf : s.par.frontend = .movsum) (h : wheelPhase inp s = .next (t, ev)) :
    t.wh.prevIn = s.wh.prevIn ∧ t.wh.dcnt = s.wh.dcnt ∧
      t.wh.stopArmed = s.wh.stopArmed ∧ t.wh.stopCnt = s.wh.stopCnt := by
  rcases wheelPhase_next h with ⟨-, rfl, -⟩ | ⟨-, -, hm⟩ | ⟨-, hd, -⟩
  · exact ⟨rfl, rfl, rfl, rfl⟩
  · obtain ⟨-, hprev, hcnt, harm, hstop⟩ := wheelMovsum_registers hm
    exact ⟨hprev, hcnt, harm, hstop⟩
  · rw [hf] at hd
    cases hd

/-! The moving-sum rows. -/

theorem wheelMovsum_off (hrun : msRun inp.cellIn s = .next m) (hw : m.wh.wheel = .off) :
    wheelMovsum inp s = .next (movsumOff inp m) := by
  simp [wheelMovsum, andThen, hrun, hw]

theorem wheelMovsum_on (hrun : msRun inp.cellIn s = .next m) (hw : m.wh.wheel = .on) :
    wheelMovsum inp s = .next (movsumOn inp m) := by
  simp [wheelMovsum, andThen, hrun, hw]

theorem wheelMovsum_onError (hrun : msRun inp.cellIn s = .next m) (hw : m.wh.wheel = .onError) :
    wheelMovsum inp s = .next (movsumOnError m) := by
  simp [wheelMovsum, andThen, hrun, hw]

/-- R152's comparison, taken over the integers, without the difference. -/
theorem onCondition_iff :
    onCondition s = true ↔ s.ms.len.toNat < s.ms.sum.toNat + s.cfg.thrOn.toNat := by
  rw [onCondition, decide_eq_true_iff]
  omega

theorem offCondition_iff : offCondition s = true ↔ s.ms.sum.toNat < s.cfg.thrOff.toNat :=
  decide_eq_true_iff

theorem errorCondition_iff :
    errorCondition s = true ↔ s.cfg.thrErrS.toNat * s.par.tickHz < s.wh.onDur.toNat :=
  decide_eq_true_iff

/-! The edge of the cell input (R161) and the state that a row starts from. -/

theorem edge_none (h : inp.cellIn = s.wh.prevIn) :
    rising inp s = false ∧ falling inp s = false ∧ sampleEdge inp s = s := by
  have hr : rising inp s = false := by simp [rising, h]
  have hf : falling inp s = false := by simp [falling, h]
  exact ⟨hr, hf, by simp [sampleEdge, hr, hf, h]⟩

/-- The state after an edge is sampled: the new level is kept and the stop timer is cancelled
(R160, R167). -/
def State.afterEdge (v : Bool) (s : State) : State :=
  { s with wh := { s.wh with prevIn := v, stopArmed := false } }

theorem edge_rising (hin : inp.cellIn = true) (hprev : s.wh.prevIn = false) :
    rising inp s = true ∧ falling inp s = false ∧ sampleEdge inp s = s.afterEdge true := by
  have hr : rising inp s = true := by simp [rising, hin, hprev]
  exact ⟨hr, by simp [falling, hin], by simp [sampleEdge, hr, hin, State.afterEdge]⟩

theorem edge_falling (hin : inp.cellIn = false) (hprev : s.wh.prevIn = true) :
    rising inp s = false ∧ falling inp s = true ∧ sampleEdge inp s = s.afterEdge false := by
  have hf : falling inp s = true := by simp [falling, hin, hprev]
  exact ⟨by simp [rising, hin], hf, by simp [sampleEdge, hf, hin, State.afterEdge]⟩

/-! The debounce rows: which one runs. -/

theorem wheelDebounce_off (hw : s.wh.wheel = .off) :
    wheelDebounce inp s = .next (debounceOff (rising inp s) (sampleEdge inp s)) := by
  simp [wheelDebounce, hw]

theorem wheelDebounce_preOn (hw : s.wh.wheel = .preOn) :
    wheelDebounce inp s = .next (debouncePreOn inp (falling inp s) (sampleEdge inp s)) := by
  simp [wheelDebounce, hw]

theorem wheelDebounce_on (hw : s.wh.wheel = .on) :
    wheelDebounce inp s = .next (debounceOn (falling inp s) (sampleEdge inp s)) := by
  simp [wheelDebounce, hw]

theorem wheelDebounce_preOff (hw : s.wh.wheel = .preOff) :
    wheelDebounce inp s = .next (debouncePreOff inp (rising inp s) (sampleEdge inp s)) := by
  simp [wheelDebounce, hw]

theorem wheelDebounce_onError (hw : s.wh.wheel = .onError) :
    wheelDebounce inp s =
      .next (debounceOnError (rising inp s) (falling inp s) (sampleEdge inp s)) := by
  simp [wheelDebounce, hw]

/-! The debounce rows: what each computes, edge or not, timer expiring or not. -/

theorem debounceOff_rising :
    debounceOff true s = ((s.countOff.setWheel .preOn).startDebounce, .none) := rfl

/-- The armed stop timer advances, and above `STOP_TICKS` it disarms itself (R167). -/
theorem debounceOff_armed (ha : s.wh.stopArmed = true) :
    debounceOff false s = ({ s with wh := { s.wh with
        offDur := s.wh.offDur + 1, stopCnt := s.wh.stopCnt + 1
        stopArmed := decide ((s.wh.stopCnt + 1).toNat ≤ stopTicks s.par) } },
      if (s.wh.stopCnt + 1).toNat ≤ stopTicks s.par then .none else .wStop) := by
  by_cases h : (s.wh.stopCnt + 1).toNat ≤ stopTicks s.par
  · rw [if_pos h, decide_eq_true h, ← ha]
    exact (if_pos ha).trans (if_neg (Nat.not_lt.mpr h))
  · rw [if_neg h, decide_eq_false h]
    exact (if_pos ha).trans (if_pos (Nat.not_le.mp h))

theorem debounceOff_disarmed (ha : s.wh.stopArmed = false) :
    debounceOff false s = (s.countOff, .none) := by
  simp [debounceOff, ha]

theorem debouncePreOn_falling :
    debouncePreOn inp true s = ((s.countOff.setWheel .off).setDcnt 0, .none) := rfl

theorem debouncePreOn_expires (h : s.wh.dcnt = 1) :
    debouncePreOn inp false s = commitOn inp (s.countOff.setDcnt 0) := by
  simp [debouncePreOn, h]

theorem debouncePreOn_runs (h : s.wh.dcnt ≠ 1) :
    debouncePreOn inp false s = (s.countOff.setDcnt (s.wh.dcnt - 1), .none) :=
  if_neg (sub_ne_zero.mpr h)

theorem debounceOn_falling :
    debounceOn true s = ((s.countOn.setWheel .preOff).startDebounce, .none) := rfl

theorem debounceOn_level :
    debounceOn false s =
      if errorCondition s.countOn then commitError s.countOn else (s.countOn, .none) := rfl

theorem debouncePreOff_rising :
    debouncePreOff inp true s = ((s.countOn.setWheel .on).setDcnt 0, .none) := rfl

theorem debouncePreOff_expires (h : s.wh.dcnt = 1) :
    debouncePreOff inp false s =
      ((commitOff inp (s.countOn.setDcnt 0)).1.armStop, (commitOff inp (s.countOn.setDcnt 0)).2) := by
  simp [debouncePreOff, h]

theorem debouncePreOff_runs (h : s.wh.dcnt ≠ 1) :
    debouncePreOff inp false s = (s.countOn.setDcnt (s.wh.dcnt - 1), .none) :=
  if_neg (sub_ne_zero.mpr h)

theorem debounceOnError_falling {rise : Bool} :
    debounceOnError rise true s = (s.startDebounce, .none) := rfl

theorem debounceOnError_rising :
    debounceOnError true false s = (s.setDcnt 0, .none) := rfl

theorem debounceOnError_stopped (h : s.wh.dcnt = 0) :
    debounceOnError false false s = (s, .none) := by
  simp [debounceOnError, h]

theorem debounceOnError_expires (h : s.wh.dcnt = 1) :
    debounceOnError false false s = recover (s.setDcnt 0) := by
  simp [debounceOnError, h]

theorem debounceOnError_runs (h0 : s.wh.dcnt ≠ 0) (h1 : s.wh.dcnt ≠ 1) :
    debounceOnError false false s = (s.setDcnt (s.wh.dcnt - 1), .none) := by
  have hpos : 0 < s.wh.dcnt.toNat := Nat.pos_of_ne_zero fun h => h0 (BitVec.eq_of_toNat_eq h)
  exact (if_pos hpos).trans (if_neg (sub_ne_zero.mpr h1))

end

/-- Settles O38: the phase writes what `wheelPhase_frame` says, and each front end less than that. -/
theorem wheelPhaseFrame : Obligations.WheelPhaseFrame := by
  intro inp s
  refine ⟨wheelPhase_movsum, wheelPhase_debounce, wheelPhase_unarmed, fun t ev h => ?_⟩
  have hms := fun hf => wheelPhase_debounce_ms hf h
  have hregs := fun hf => wheelPhase_movsum_registers hf h
  obtain ⟨m, w, i, rfl⟩ := wheelPhase_frame h
  exact ⟨rfl, rfl, rfl, rfl, rfl, rfl, rfl, hms, hregs⟩

/-- Settles O39, by the two comparisons of the OFF row. -/
theorem movsumOffTransitions : Obligations.MovsumOffTransitions := by
  intro inp s m hrun hw
  rw [wheelMovsum_off hrun hw, movsumOff, apply_ite Host.Outcome.next]
  exact if_congr onCondition_iff rfl
    (congrArg Host.Outcome.next (apply_ite (Prod.mk m.countOff) _ _ _).symm)

/-- Settles O40, by the two comparisons of the ON row, in their order (R155). -/
theorem movsumOnTransitions : Obligations.MovsumOnTransitions := by
  intro inp s m hrun hw
  rw [wheelMovsum_on hrun hw, movsumOn, apply_ite Host.Outcome.next, apply_ite Host.Outcome.next]
  exact if_congr offCondition_iff rfl (if_congr errorCondition_iff rfl rfl)

/-- Settles O41: the ON_ERROR row compares the sum with 0. -/
theorem movsumRecovery : Obligations.MovsumRecovery := by
  intro inp s m hrun hw
  rw [wheelMovsum_onError hrun hw, movsumOnError, apply_ite Host.Outcome.next]
  rfl

/-- Settles O42, by the wheel state, the edge and the timer. -/
theorem debounceAbsentTransitions : Obligations.DebounceAbsentTransitions := by
  intro inp s
  refine ⟨fun hw hin hprev => ?_, fun hw hlevel ha => ?_, fun hw hlevel ha => ?_,
    fun hw hin hprev => ?_, fun hw hin hprev hcnt => ?_, fun hw hin hprev hcnt => ?_⟩
  · obtain ⟨hr, -, hs⟩ := edge_rising hin hprev
    rw [wheelDebounce_off hw, hr, hs, debounceOff_rising]
    rfl
  · obtain ⟨hr, -, hs⟩ := edge_none hlevel
    rw [wheelDebounce_off hw, hr, hs, debounceOff_armed ha]
    rfl
  · obtain ⟨hr, -, hs⟩ := edge_none hlevel
    rw [wheelDebounce_off hw, hr, hs, debounceOff_disarmed ha]
    rfl
  · obtain ⟨-, hf, hs⟩ := edge_falling hin hprev
    rw [wheelDebounce_preOn hw, hf, hs, debouncePreOn_falling]
    rfl
  · obtain ⟨-, hf, hs⟩ := edge_none (hin.trans hprev.symm)
    rw [wheelDebounce_preOn hw, hf, hs, debouncePreOn_expires hcnt]
    rfl
  · obtain ⟨-, hf, hs⟩ := edge_none (hin.trans hprev.symm)
    rw [wheelDebounce_preOn hw, hf, hs, debouncePreOn_runs hcnt]
    rfl

/-- Settles O43, by the wheel state, the edge, and the error condition or the timer. -/
theorem debouncePresentTransitions : Obligations.DebouncePresentTransitions := by
  intro inp s
  refine ⟨fun hw hin hprev => ?_, fun hw hin hprev => ?_, fun hw hin hprev => ?_,
    fun hw hin hprev hcnt => ?_, fun hw hin hprev hcnt => ?_⟩
  · obtain ⟨-, hf, hs⟩ := edge_falling hin hprev
    rw [wheelDebounce_on hw, hf, hs, debounceOn_falling]
    rfl
  · obtain ⟨-, hf, hs⟩ := edge_none (hin.trans hprev.symm)
    rw [wheelDebounce_on hw, hf, hs, debounceOn_level, apply_ite Host.Outcome.next]
    exact if_congr errorCondition_iff rfl rfl
  · obtain ⟨hr, -, hs⟩ := edge_rising hin hprev
    rw [wheelDebounce_preOff hw, hr, hs, debouncePreOff_rising]
    rfl
  · obtain ⟨hr, -, hs⟩ := edge_none (hin.trans hprev.symm)
    rw [wheelDebounce_preOff hw, hr, hs, debouncePreOff_expires hcnt]
    rfl
  · obtain ⟨hr, -, hs⟩ := edge_none (hin.trans hprev.symm)
    rw [wheelDebounce_preOff hw, hr, hs, debouncePreOff_runs hcnt]
    rfl

/-- Settles O44, by the edge, then by the timer at 0, at 1 and above. -/
theorem debounceRecovery : Obligations.DebounceRecovery := by
  intro inp s hw
  rw [wheelDebounce_onError hw]
  refine ⟨fun hin hprev => ?_, fun hin hprev => ?_, fun hlevel hcnt => ?_,
    fun hlevel hcnt => ?_, fun hlevel h0 h1 => ?_⟩
  · obtain ⟨hr, hf, hs⟩ := edge_falling hin hprev
    rw [hr, hf, hs, debounceOnError_falling]
    rfl
  · obtain ⟨hr, hf, hs⟩ := edge_rising hin hprev
    rw [hr, hf, hs, debounceOnError_rising]
    rfl
  · obtain ⟨hr, hf, hs⟩ := edge_none hlevel
    rw [hr, hf, hs, debounceOnError_stopped hcnt]
  · obtain ⟨hr, hf, hs⟩ := edge_none hlevel
    rw [hr, hf, hs, debounceOnError_expires hcnt]
    rfl
  · obtain ⟨hr, hf, hs⟩ := edge_none hlevel
    rw [hr, hf, hs, debounceOnError_runs h0 h1]
    rfl

end Sys2Proof.Machine

/-! PROOFS. What each transition of the session phase computes (42_session R191 to R202). -/

namespace Sys2Proof.Machine

/-! The axle midpoint (R197). -/

theorem midpoint_eq (ton toff : U32) :
    midpoint ton toff = ton + BitVec.ofNat 32 ((toff - ton).toNat / 2) := by
  have hhalf : (toff - ton) / 2 = BitVec.ofNat 32 ((toff - ton).toNat / 2) := by
    apply BitVec.eq_of_toNat_eq
    have hlt : (toff - ton).toNat / 2 < 2 ^ 32 := by omega
    rw [BitVec.toNat_udiv, BitVec.toNat_ofNat, Nat.mod_eq_of_lt hlt]
    rfl
  rw [midpoint, hhalf]

/-- The distance to the OFF time is taken modulo 2^32, so it survives a wrap of the counter. -/
theorem midpoint_toNat (ton toff : U32) :
    (midpoint ton toff).toNat =
      (ton.toNat + (2 ^ 32 - ton.toNat + toff.toNat) % 2 ^ 32 / 2) % 2 ^ 32 := by
  rw [midpoint, BitVec.toNat_add, BitVec.toNat_udiv, BitVec.toNat_sub]
  rfl

/-- Settles O52: the distance is `toff - ton` without a wrap, `toff + 2^32 - ton` with one. -/
theorem midpointIsFloorMean : Obligations.MidpointIsFloorMean := by
  intro ton toff
  rw [midpoint_toNat]
  exact ⟨fun hle => by omega, fun hlt => by omega⟩

section
variable {inp : Inputs} {s : State} {ev : WheelEvent}

/-! The branch of `SessionStep` that runs (R190). -/

theorem sessionPhase_idle (h : s.ss.sess = .idle) (harm : inp.armIn = false) :
    sessionPhase inp ev s = if inp.sleepIn then .next (s.setSession .sleep) else .next s := by
  simp [sessionPhase, h, harm]

theorem sessionPhase_arming (h : s.ss.sess = .idle) (harm : inp.armIn = true) :
    sessionPhase inp ev s = andThen (arm s) fun t => .next (t.setSession .rdy) := by
  simp [sessionPhase, h, harm]

theorem sessionPhase_sleep (h : s.ss.sess = .sleep) :
    sessionPhase inp ev s = if inp.sleepIn then .next s else .next (s.setSession .idle) := by
  simp [sessionPhase, h]

theorem sessionPhase_armed (h : s.ss.sess.armed = true) :
    sessionPhase inp ev s = if inp.armIn then armedStep ev s else disarm s := by
  rcases armed_iff.mp h with hs | hs | hs | hs <;> simp only [sessionPhase, hs]

theorem sessionPhase_event (h : s.ss.sess.armed = true) (harm : inp.armIn = true) :
    sessionPhase inp ev s = armedStep ev s :=
  (sessionPhase_armed h).trans (if_pos harm)

theorem sessionPhase_disarm (h : s.ss.sess.armed = true) (harm : inp.armIn = false) :
    sessionPhase inp ev s = disarm s :=
  (sessionPhase_armed h).trans (if_neg (by simp [harm]))

/-! The state each transition leaves. -/

/-- `Arm()` on a legal window always completes (R191). -/
theorem arm_eq (h1 : 1 ≤ s.cfg.sumLen.toNat) (h32 : s.cfg.sumLen.toNat ≤ 32)
    (hbuf : s.ms.buf.wf Config.maxWindow = true) :
    arm s = .next (State.clearForArm { s with ms := .empty s.cfg.sumLen.toNat }) := by
  rw [arm, msSetup_eq h1 h32 hbuf, andThen_next]

/-- Disarm reports a started pass-by and ends the session (R194). -/
theorem disarm_eq (s : State) :
    disarm s = .next { (if s.ss.pbStarted then
        s.withFrame (frameEncode (encode (.msgStop s.ss.passbyCount s.ss.axleCount))) else s) with
      ss := { s.ss with sess := .idle, axleCount := 0, pbStarted := false }
      ind := { axle := false, error := false } } := by
  rw [disarm, execMsgStop_eq]
  cases s.ss.pbStarted <;> rfl

/-- The first axle of a pass-by stages START (R196). -/
theorem axleDone_first {on off ton toff : U32} (hp : s.ss.pbStarted = false) :
    axleDone on off ton toff s = .next
      { s.withFrame (frameEncode (encode
          (.msgStart (s.ss.passbyCount + 1) (midpoint ton toff)))) with
        ss := { s.ss with
          sess := .passbyOff, axleCount := s.ss.axleCount + 1, passbyCount := s.ss.passbyCount + 1
          pbStarted := true, passbyT0 := midpoint ton toff, lastAxleTs := 0 } } := by
  simp only [axleDone, execMsgStart_eq, hp]
  rfl

/-- A later axle stages AXLE, timed from the first (R196). -/
theorem axleDone_later {on off ton toff : U32} (hp : s.ss.pbStarted = true) :
    axleDone on off ton toff s = .next
      { s.withFrame (frameEncode (encode (.msgAxle on off))) with
        ss := { s.ss with
          sess := .passbyOff, axleCount := s.ss.axleCount + 1
          lastAxleTs := midpoint ton toff - s.ss.passbyT0 } } := by
  simp only [axleDone, execMsgAxle_eq, hp]
  rfl

theorem sensorError_eq (off : U32) (s : State) :
    sensorError off s = .next { s.withFrame (frameEncode (encode (.msgAxleErr off))) with
      ss := { s.ss with sess := .error, errorCount := s.ss.errorCount + 1 } } := by
  rw [sensorError, execMsgAxleErr_eq]
  rfl

theorem sensorRecovered_eq (s : State) :
    sensorRecovered s = { s with ss :=
      if s.ss.pbStarted then { s.ss with sess := .passbyOff }
      else { s.ss with sess := .rdy, axleCount := 0 } } := by
  rw [sensorRecovered]
  cases s.ss.pbStarted <;> rfl

theorem passbyStopped_eq (s : State) :
    passbyStopped s = .next
      { s.withFrame (frameEncode (encode (.msgStop s.ss.passbyCount s.ss.axleCount))) with
        ss := { s.ss with sess := .rdy, axleCount := 0, pbStarted := false } } := by
  rw [passbyStopped, execMsgStop_eq]
  rfl

end

/-! The transitions as the statements have them. -/

/-- Settles O46. -/
theorem idleAndSleepTransitions : Obligations.IdleAndSleepTransitions := by
  intro inp ev s
  refine ⟨fun hs harm => ?_, fun hs => ?_⟩
  · rw [sessionPhase_idle hs harm, apply_ite Host.Outcome.next]
    rfl
  · rw [sessionPhase_sleep hs, apply_ite Host.Outcome.next]
    rfl

/-- Settles O45: `arm_eq` gives the cleared registers, and the session goes to RDY. -/
theorem armingStartsSession : Obligations.ArmingStartsSession := by
  intro inp ev s hs harm h1 h32 hbuf
  rw [sessionPhase_arming hs harm, arm_eq h1 h32 hbuf]
  rfl

/-- A 16-bit field goes low byte first (R80). -/
theorem le16_eq_ofNat (v : U16) :
    le16 v = [BitVec.ofNat 8 v.toNat, BitVec.ofNat 8 (v.toNat / 2 ^ 8)] := by
  simp [le16, BitVec.extractLsb', Nat.shiftRight_eq_div_pow]

/-- The payload of STOP (R249). -/
theorem encode_msgStop (pid n : U16) :
    encode (.msgStop pid n) = [0x0A, BitVec.ofNat 8 pid.toNat, BitVec.ofNat 8 (pid.toNat / 2 ^ 8),
      BitVec.ofNat 8 n.toNat, BitVec.ofNat 8 (n.toNat / 2 ^ 8)] := by
  rw [encode, le16_eq_ofNat, le16_eq_ofNat]
  rfl

/-- Settles O47: the event is not looked at, and `disarm_eq` is the same in all four states. -/
theorem disarmEndsSession : Obligations.DisarmEndsSession := by
  intro inp ev s hs harm
  rw [sessionPhase_disarm (armed_iff.mpr hs) harm, disarm_eq, encode_msgStop]
  rfl

/-- Settles O48, by whether the pass-by has started. -/
theorem axleCompletionReports : Obligations.AxleCompletionReports := by
  intro inp s on off ton toff mid hs harm hmid
  obtain rfl : mid = midpoint ton toff := hmid.trans (midpoint_eq ton toff).symm
  have hrow : sessionPhase inp (.wAxle on off ton toff) s = axleDone on off ton toff s := by
    rw [sessionPhase_event (by rw [hs]; rfl) harm, armedStep_passbyOn hs]
  rw [hrow]
  exact ⟨fun hp => ⟨_, exec_message rfl s, axleDone_first hp⟩,
    fun hp => ⟨_, exec_message rfl s, axleDone_later hp⟩⟩

/-- Settles O49: the error is reported on entry, and recovery looks at `pb_started`. -/
theorem sensorErrorAndRecovery : Obligations.SensorErrorAndRecovery := by
  intro inp s off harm
  refine ⟨fun hs => ⟨_, exec_message rfl s, ?_⟩, fun hs => ?_⟩
  · rw [sessionPhase_event (by rw [hs]; rfl) harm, armedStep_passbyOn hs]
    exact sensorError_eq off s
  · rw [sessionPhase_event (by rw [hs]; rfl) harm, armedStep_error hs]
    exact congrArg Host.Outcome.next (sensorRecovered_eq s)

/-- Settles O50: the three transitions, and the coupling of the invariant in PASSBY_OFF. -/
theorem passbyTransitions : Obligations.PassbyTransitions := by
  intro inp s harm
  refine ⟨fun hs => ?_, fun hs => ?_, fun hs => ⟨_, exec_message rfl s, ?_⟩, fun hs hinv => ?_⟩
  · rw [sessionPhase_event (by rw [hs]; rfl) harm, armedStep_rdy hs]
    rfl
  · rw [sessionPhase_event (by rw [hs]; rfl) harm, armedStep_passbyOff hs]
    rfl
  · rw [sessionPhase_event (by rw [hs]; rfl) harm, armedStep_passbyOff hs]
    exact passbyStopped_eq s
  · obtain ⟨-, hcoupled⟩ := inv_iff.mp hinv
    obtain ⟨-, hstarted⟩ := (coupled_passbyOff hs).mp hcoupled
    exact hstarted

/-- Settles O51, by the armed state: its row of R190 skips every event it does not list. -/
theorem unlistedEventsAreSkipped : Obligations.UnlistedEventsAreSkipped := by
  intro inp ev s harm ha hrdy hon hoff herr
  rw [sessionPhase_event ha harm]
  rcases armed_iff.mp ha with hs | hs | hs | hs
  · rw [armedStep_rdy hs]
    split
    · exact absurd ⟨hs, rfl⟩ hrdy
    · rfl
  · rw [armedStep_passbyOn hs]
    split
    · exact absurd ⟨hs, .inl ⟨_, _, _, _, rfl⟩⟩ hon
    · exact absurd ⟨hs, .inr ⟨_, rfl⟩⟩ hon
    · rfl
  · rw [armedStep_passbyOff hs]
    split
    · exact absurd ⟨hs, .inl rfl⟩ hoff
    · exact absurd ⟨hs, .inr rfl⟩ hoff
    · rfl
  · rw [armedStep_error hs]
    split
    · exact absurd ⟨hs, rfl⟩ herr
    · rfl

end Sys2Proof.Machine

/-! PROOFS. Every phase of a step completes from a state of the invariant (42_session R205,
60_exceptions R310, 20_memory R83, R84). -/

namespace Sys2Proof.Machine

/-! The encodings in use (93 I7). -/

theorem wheel_used {w : Wheel} (h : w.bits.toNat ≤ 4) :
    w = .off ∨ w = .preOn ∨ w = .on ∨ w = .preOff ∨ w = .onError := by
  cases w <;> simp [Wheel.bits] at h ⊢

theorem session_used {v : Session} (h : v.bits.toNat ≤ 5) :
    v = .idle ∨ v.armed = true ∨ v = .sleep := by
  cases v <;> simp [Session.bits, Session.armed] at h ⊢

/-- A legal window meets the precondition of `MS_Setup` (R132). -/
theorem legalWindow_range {n : Byte} (h : legalWindow n = true) : 1 ≤ n.toNat ∧ n.toNat ≤ 32 := by
  have hcases : n = 2 ∨ n = 4 ∨ n = 8 ∨ n = 16 ∨ n = 32 := by
    simpa [legalWindow, or_assoc] using h
  rcases hcases with rfl | rfl | rfl | rfl | rfl <;> decide

section
variable {inp : Inputs} {s : State} {ev : WheelEvent}

/-! The wheel phase. -/

theorem wheelMovsum_completes (hlen : 1 ≤ s.ms.len.toNat ∧ s.ms.len.toNat ≤ 32)
    (hw : s.wh.wheel = .off ∨ s.wh.wheel = .on ∨ s.wh.wheel = .onError) :
    ∃ r, wheelMovsum inp s = .next r := by
  obtain ⟨h1, h32⟩ := hlen
  obtain ⟨u, hrun⟩ := msRun_completes inp.cellIn h1 h32
  obtain ⟨m, rfl⟩ := msRun_frame hrun
  rcases hw with hw | hw | hw
  · exact ⟨_, wheelMovsum_off hrun hw⟩
  · exact ⟨_, wheelMovsum_on hrun hw⟩
  · exact ⟨_, wheelMovsum_onError hrun hw⟩

theorem wheelDebounce_completes (hw : s.wh.wheel.bits.toNat ≤ 4) :
    ∃ r, wheelDebounce inp s = .next r := by
  rcases wheel_used hw with hw | hw | hw | hw | hw
  · exact ⟨_, wheelDebounce_off hw⟩
  · exact ⟨_, wheelDebounce_preOn hw⟩
  · exact ⟨_, wheelDebounce_on hw⟩
  · exact ⟨_, wheelDebounce_preOff hw⟩
  · exact ⟨_, wheelDebounce_onError hw⟩

/-- While armed the filter has the configured window, which is a legal one (R50(i), R36). -/
theorem PhaseInv.window_range (hs : PhaseInv s) (ha : s.ss.sess.armed = true) :
    1 ≤ s.ms.len.toNat ∧ s.ms.len.toNat ≤ 32 := by
  obtain ⟨hlen, -⟩ := hs.filter ha
  obtain ⟨hlegal, -⟩ := hs.cfg
  rw [hlen]
  exact legalWindow_range hlegal

theorem wheelPhase_completes (hs : PhaseInv s) : ∃ t ev, wheelPhase inp s = .next (t, ev) := by
  obtain ⟨hbits, -, hmov⟩ := hs.enc
  cases ha : s.ss.sess.armed with
  | false => exact ⟨_, _, wheelPhase_unarmed ha⟩
  | true =>
    cases hf : s.par.frontend with
    | movsum =>
      obtain ⟨⟨t, ev⟩, h⟩ := wheelMovsum_completes (inp := inp) (hs.window_range ha) (hmov hf)
      exact ⟨t, ev, (wheelPhase_movsum ha hf).trans h⟩
    | debounce =>
      obtain ⟨⟨t, ev⟩, h⟩ := wheelDebounce_completes (inp := inp) hbits
      exact ⟨t, ev, (wheelPhase_debounce ha hf).trans h⟩

/-! The command phase. -/

/-- A command completes in every session that is in use (R260). -/
theorem exec_command_completes {i : Instr} (hi : isCommand i = true) (hw : i.wellFormed = true)
    (hsess : s.ss.sess.bits.toNat ≤ 5) : ∃ t, exec i s = .next t := by
  obtain ⟨run, hrun⟩ := exec_command_eq_whenIdle hi s
  rcases session_used hsess with hidle | harmed | hsleep
  · exact ⟨_, exec_command_idle hi hw hidle⟩
  · exact ⟨_, hrun.trans (whenIdle_armed run harmed)⟩
  · exact ⟨_, hrun.trans (whenIdle_sleep run hsleep)⟩

theorem commandPhase_completes (hsess : s.ss.sess.bits.toNat ≤ 5) :
    ∃ t, commandPhase inp s = .next t := by
  rw [commandPhase]
  split_ifs
  · exact exec_command_completes (isCommand_decodeCommand _) (decodeCommand_wellFormed _) hsess
  · exact ⟨s, rfl⟩

/-! The session phase. -/

/-- The first and a later axle are both reported. -/
theorem axleDone_completes (on off ton toff : U32) (s : State) :
    ∃ t, axleDone on off ton toff s = .next t := by
  cases hp : s.ss.pbStarted with
  | false => exact ⟨_, axleDone_first hp⟩
  | true => exact ⟨_, axleDone_later hp⟩

theorem armedStep_completes (ha : s.ss.sess.armed = true) : ∃ t, armedStep ev s = .next t := by
  rcases armed_iff.mp ha with hs | hs | hs | hs
  · rw [armedStep_rdy hs]
    split <;> exact ⟨_, rfl⟩
  · rw [armedStep_passbyOn hs]
    split
    · exact axleDone_completes _ _ _ _ s
    · exact ⟨_, sensorError_eq _ s⟩
    · exact ⟨_, rfl⟩
  · rw [armedStep_passbyOff hs]
    split
    · exact ⟨_, rfl⟩
    · exact ⟨_, passbyStopped_eq s⟩
    · exact ⟨_, rfl⟩
  · rw [armedStep_error hs]
    split <;> exact ⟨_, rfl⟩

/-- In IDLE the legal configuration makes `Arm()` complete (R132, R205). -/
theorem sessionPhase_completes (hs : PhaseInv s) : ∃ t, sessionPhase inp ev s = .next t := by
  obtain ⟨-, hsess, -⟩ := hs.enc
  rcases session_used hsess with hidle | ha | hsleep
  · cases harm : inp.armIn with
    | false =>
      rw [sessionPhase_idle hidle harm]
      split_ifs <;> exact ⟨_, rfl⟩
    | true =>
      obtain ⟨hlegal, -⟩ := hs.cfg
      obtain ⟨h1, h32⟩ := legalWindow_range hlegal
      exact ⟨_, armingStartsSession inp ev s hidle harm h1 h32 hs.msBuf⟩
  · rw [sessionPhase_armed ha]
    split_ifs
    · exact armedStep_completes ha
    · exact ⟨_, disarm_eq s⟩
  · rw [sessionPhase_sleep hsleep]
    split_ifs <;> exact ⟨_, rfl⟩

/-! The transmit phase. -/

/-- The byte to send lies inside `tx_buf` (R84, R50(g)). -/
theorem transmitPhase_completes (hs : PhaseInv s) : ∃ t, transmitPhase inp s = .next t := by
  cases hsend : sends inp s with
  | false => exact ⟨s, transmitPhase_next_iff.mpr (.inr ⟨hsend, rfl⟩)⟩
  | true =>
    obtain ⟨⟨hlen, hpos⟩, -⟩ := hs.tx
    obtain ⟨⟨-, hpending⟩, -⟩ := sends_iff.mp hsend
    have hinside : s.tx.pos.toNat < Config.txBufMax := (hpos.resolve_left hpending).trans_le hlen
    exact ⟨_, transmitPhase_next_iff.mpr (.inl ⟨hsend, hinside, rfl⟩)⟩

end

/-- Settles O4: each phase completes from `PhaseInv` and keeps it for the next. -/
theorem noStopUnderBlockInvariant : Obligations.NoStopUnderBlockInvariant := by
  intro s hinv
  obtain ⟨hs, -⟩ := inv_iff.mp hinv
  obtain ⟨a, ev, hwheel⟩ := wheelPhase_completes (inp := s.inputs) hs.beginStep
  have ha := wheelPhase_keeps hs.beginStep hwheel
  obtain ⟨-, hsess, -⟩ := ha.enc
  obtain ⟨b, hcmd⟩ := commandPhase_completes (inp := s.inputs) hsess
  have hb := commandPhase_keeps ha hcmd
  obtain ⟨c, hsession⟩ := sessionPhase_completes (inp := s.inputs) (ev := ev) hb
  have hc := sessionPhase_keeps hb hsession
  obtain ⟨t, htx⟩ := transmitPhase_completes (inp := s.inputs) hc
  exact ⟨t, tickWith_next_iff.mpr ⟨a, ev, b, c, hwheel, hcmd, hsession, htx⟩⟩

end Sys2Proof.Machine

/-! PROOFS. The length of a frame (43_frame_codec R221, R223): which bytes of it are escaped. -/

namespace Sys2Proof.Machine

/-- The escaping adds one byte per framing byte (R106, R221). -/
theorem escaped_length (p : List Byte) :
    (escaped p).length = p.length + p.countP framingByte := by
  induction p with
  | nil => rfl
  | cons b p ih =>
    cases hb : framingByte b with
    | false => simp +arith [escaped, hb, ih]
    | true => simp +arith [escaped, hb, ih]

theorem frameEncode_length (p : List Byte) :
    (frameEncode p).length = p.length + 2 + p.countP framingByte := by
  simp only [frameEncode, List.length_cons, List.length_append, List.length_nil, escaped_length]
  omega

/-- Settles O27: the length is counted, and a payload of at most 7 bytes is always staged. -/
theorem frameLengthAndFit : Obligations.FrameLengthAndFit := by
  intro p
  have hle := frameEncode_length_le p
  exact ⟨frameEncode_length p, hle, fun h => ⟨by omega, fun s => ⟨_, stage_short h s⟩⟩⟩

theorem framingByte_eq_false_iff {b : Byte} :
    framingByte b = false ↔ b ≠ 0x7C ∧ b ≠ 0x7D ∧ b ≠ 0x7E := by
  rw [← Bool.not_eq_true, framingByte_iff, not_or, not_or]

/-- Every message starts with a header of R110, and no header is a framing byte (R111). -/
theorem encode_message_header {i : Instr} (hi : isCommand i = false) :
    ∃ h t, encode i = h :: t ∧ framingByte h = false := by
  cases i <;> cases hi <;> exact ⟨_, _, rfl, rfl⟩

/-- A first byte that is no framing byte stands unescaped behind the start byte. -/
theorem frameEncode_cons {h : Byte} (hh : framingByte h = false) (t : List Byte) :
    frameEncode (h :: t) = 0x7C :: h :: (escaped t ++ [0x7D]) := by
  simp [frameEncode, escaped, hh, Config.frameStart, Config.frameStop]

/-- A message's frame is shortest with nothing escaped and longest with all but the header escaped
(R223). -/
theorem message_frame_length {i : Instr} {n : Nat} (hi : isCommand i = false)
    (hn : (encode i).length = n) :
    n + 2 ≤ (frameEncode (encode i)).length ∧ (frameEncode (encode i)).length ≤ 2 * n + 1 := by
  obtain ⟨h, t, hit, hh⟩ := encode_message_header hi
  have hcount : t.countP framingByte ≤ t.length := List.countP_le_length
  rw [frameEncode_length, hn, hit, List.countP_cons_of_neg (by simp [hh])]
  rw [hit, List.length_cons] at hn
  omega

/-- Settles O28: the bounds of `message_frame_length` at the payload lengths of R110. -/
theorem frameLengthBounds : Obligations.FrameLengthBounds := by
  intro c pid n on off ts
  refine ⟨?_, ?_, message_frame_length rfl rfl, message_frame_length rfl rfl, fun i hi => ?_⟩
  · rintro i (rfl | rfl | rfl | rfl | rfl | rfl | rfl) <;> exact message_frame_length rfl rfl
  · rintro i (rfl | rfl) <;> exact message_frame_length rfl rfl
  · obtain ⟨h, t, hit, hh⟩ := encode_message_header hi
    obtain ⟨hstart, hstop, hesc⟩ := framingByte_eq_false_iff.mp hh
    exact ⟨h, t, hit, hstart, hstop, hesc, hit ▸ frameEncode_cons hh t⟩

end Sys2Proof.Machine

/-! PROOFS. The frame decoder (43_frame_codec R226 to R229): what `DecStep` does in each mode, and
the bytes of the frame that it is in the middle of. -/

namespace Sys2Proof.Machine

section
variable {b : Byte} {s : State}

/-! `Put` (R227). -/

theorem decPut_full (h : s.dec.len.toNat = 16) :
    decPut b s = { s with dec := { s.dec with st := .hunt, len := 0 } } :=
  if_pos (BitVec.eq_of_toNat_eq h)

theorem decPut_room (h : s.dec.len.toNat < 16) :
    decPut b s = { s with dec :=
      { s.dec with buf := s.dec.buf.write s.dec.len.toNat b, len := s.dec.len + 1 } } :=
  if_neg fun he => absurd (congrArg BitVec.toNat he) (Nat.ne_of_lt h)

/-- `Put` writes the decoder registers alone. -/
theorem decPut_frame (b : Byte) (s : State) : { decPut b s with dec := s.dec } = s := by
  rw [decPut]
  split <;> rfl

/-! `DecStep` (R227): one equation per row. -/

theorem decStep_hunt_start (hlen : s.dec.len.toNat ≤ Config.decMax) (hst : s.dec.st = .hunt) :
    decStep 0x7C s = .next ({ s with dec := { s.dec with st := .body, len := 0 } }, none) := by
  rw [decStep, if_neg (Nat.not_lt.mpr hlen), hst]
  rfl

theorem decStep_hunt_other (hlen : s.dec.len.toNat ≤ Config.decMax) (hst : s.dec.st = .hunt)
    (hb : b ≠ 0x7C) : decStep b s = .next (s, none) := by
  rw [decStep, if_neg (Nat.not_lt.mpr hlen), hst]
  exact if_neg hb

theorem decStep_esc (hlen : s.dec.len.toNat ≤ Config.decMax) (hst : s.dec.st = .esc) :
    decStep b s = .next (decPut b (s.setDecoder .body), none) := by
  rw [decStep, if_neg (Nat.not_lt.mpr hlen), hst]

theorem decStep_body_esc (hlen : s.dec.len.toNat ≤ Config.decMax) (hst : s.dec.st = .body) :
    decStep 0x7E s = .next (s.setDecoder .esc, none) := by
  rw [decStep, if_neg (Nat.not_lt.mpr hlen), hst]
  rfl

theorem decStep_body_start (hlen : s.dec.len.toNat ≤ Config.decMax) (hst : s.dec.st = .body) :
    decStep 0x7C s = .next ({ s with dec := { s.dec with len := 0 } }, none) := by
  rw [decStep, if_neg (Nat.not_lt.mpr hlen), hst]
  rfl

theorem decStep_body_stop (hlen : s.dec.len.toNat ≤ Config.decMax) (hst : s.dec.st = .body) :
    decStep 0x7D s = .next (s.setDecoder .hunt, some s.received) := by
  rw [decStep, if_neg (Nat.not_lt.mpr hlen), hst]
  rfl

theorem decStep_body_data (hlen : s.dec.len.toNat ≤ Config.decMax) (hst : s.dec.st = .body)
    (hb : framingByte b = false) : decStep b s = .next (decPut b s, none) := by
  obtain ⟨hstart, hstop, hesc⟩ := framingByte_eq_false_iff.mp hb
  rw [decStep, if_neg (Nat.not_lt.mpr hlen), hst]
  exact (if_neg hesc).trans ((if_neg hstart).trans (if_neg hstop))

theorem setDecoder_self {m : DecoderMode} (hst : s.dec.st = m) : s.setDecoder m = s := by
  rw [State.setDecoder, ← hst]

/-- In ESC every byte is put, and in BODY every byte but the framing bytes; the decoder is then in
BODY, unless the frame is dropped. -/
theorem decStep_put (hlen : s.dec.len.toNat ≤ Config.decMax)
    (h : s.dec.st = .esc ∨ (s.dec.st = .body ∧ framingByte b = false)) :
    decStep b s = .next (decPut b (s.setDecoder .body), none) := by
  rcases h with hst | ⟨hst, hb⟩
  · exact decStep_esc hlen hst
  · rw [decStep_body_data hlen hst hb, setDecoder_self hst]

/-- A start byte begins a frame in HUNT and begins it again in BODY. -/
theorem decStep_start (hlen : s.dec.len.toNat ≤ Config.decMax)
    (hst : s.dec.st = .hunt ∨ s.dec.st = .body) :
    decStep 0x7C s = .next ({ s with dec := { s.dec with st := .body, len := 0 } }, none) := by
  rcases hst with hst | hst
  · exact decStep_hunt_start hlen hst
  · rw [decStep_body_start hlen hst, ← hst]

/-! The registers stay in range (R84). -/

theorem decPut_inv (hst : s.dec.st ≠ .unused3) (hlen : s.dec.len.toNat ≤ 16)
    (hbuf : s.dec.buf.wf Config.decMax = true) : DecoderInv (decPut b s) := by
  rcases Nat.lt_or_eq_of_le hlen with hroom | hfull
  · rw [decPut_room hroom]
    have hnext : (s.dec.len + 1).toNat ≤ 16 := by bv_omega
    exact ⟨hst, hnext, Memory.write_wf hbuf hroom b⟩
  · rw [decPut_full hfull]
    exact ⟨nofun, Nat.zero_le _, hbuf⟩

end

section
variable {w : Nat}

theorem Memory.readAll_eq_map (m : Memory w) (a n : Nat) :
    m.readAll a n = (List.range n).map fun i => m.read (a + i) := by
  induction n generalizing a with
  | zero => rfl
  | succ n ih =>
    rw [Memory.readAll, ih, List.range_succ_eq_map, List.map_cons, List.map_map]
    simp only [Function.comp_def, Nat.add_zero, Nat.succ_eq_add_one, Nat.add_comm 1,
      Nat.add_assoc]

/-- A write behind the first `n` elements appends to them. -/
theorem Memory.readAll_write {size : Nat} {m : Memory w} (hm : m.wf size = true) (n : Nat)
    (v : BitVec w) : (m.write n v).readAll 0 (n + 1) = m.readAll 0 n ++ [v] := by
  have hkeep : ∀ i ∈ List.range n, (m.write n v).read (0 + i) = m.read (0 + i) := fun i hi =>
    Memory.read_write_other m n _ v (by have := List.mem_range.mp hi; omega)
  rw [Memory.readAll_eq_map, Memory.readAll_eq_map, List.range_succ, List.map_append,
    List.map_congr_left hkeep, List.map_singleton, Nat.zero_add, Memory.read_write_same hm]

end

/-- The decoder is in the middle of a frame, with the payload bytes `q` received. -/
structure DecoderRegs.Holds (q : List Byte) (d : DecoderRegs) : Prop where
  mode : d.st = .body
  count : d.len.toNat = q.length
  canonical : d.buf.wf Config.decMax = true
  bytes : d.buf.readAll 0 q.length = q

section
variable {b : Byte} {q : List Byte} {s : State}

/-- A byte put behind the payload received so far extends it. -/
theorem decPut_holds (hs : s.dec.Holds q) (hroom : q.length < 16) :
    (decPut b s).dec.Holds (q ++ [b]) := by
  obtain ⟨hmode, hcount, hcanonical, hbytes⟩ := hs
  have hlength : (q ++ [b]).length = q.length + 1 := List.length_append
  rw [decPut_room (hcount ▸ hroom)]
  refine ⟨hmode, ?_, Memory.write_wf hcanonical (hcount ▸ hroom) b, ?_⟩
  · rw [hlength]
    bv_omega
  · rw [hlength, hcount, Memory.readAll_write hcanonical, hbytes]

/-- A byte that completes no frame adds none to what the rest of the stream yields. -/
theorem decFeed_cons_of_none {t : State} (h : decStep b s = .next (t, none)) (l : List Byte) :
    decFeed (b :: l) s = decFeed l t := by
  rw [decFeed, h]
  change andThen (decFeed l t) Host.Outcome.next = decFeed l t
  cases decFeed l t <;> rfl

/-- A payload byte of the frame is put, whether it is escaped or not. -/
theorem decFeed_escaped_cons (hlen : s.dec.len.toNat ≤ 16) (hst : s.dec.st = .body)
    (p : List Byte) : decFeed (escaped (b :: p)) s = decFeed (escaped p) (decPut b s) := by
  cases hb : framingByte b with
  | false =>
    rw [escaped, hb]
    exact decFeed_cons_of_none (decStep_body_data hlen hst hb) _
  | true =>
    have hliteral : decStep b (s.setDecoder .esc) = .next (decPut b s, none) := by
      have hback : (s.setDecoder .esc).setDecoder .body = s := setDecoder_self hst
      rw [decStep_esc (s := s.setDecoder .esc) hlen rfl, hback]
    calc decFeed (escaped (b :: p)) s
        = decFeed (0x7E :: b :: escaped p) s := by rw [escaped, hb]; rfl
      _ = decFeed (b :: escaped p) (s.setDecoder .esc) :=
          decFeed_cons_of_none (decStep_body_esc hlen hst) _
      _ = decFeed (escaped p) (decPut b s) := decFeed_cons_of_none hliteral _

/-- The body of a frame extends the payload byte by byte and completes nothing. -/
theorem decFeed_escaped (p : List Byte) (hs : s.dec.Holds q) (hfit : q.length + p.length ≤ 16) :
    ∃ t, decFeed (escaped p) s = .next (t, []) ∧ t.dec.Holds (q ++ p) := by
  induction p generalizing q s with
  | nil => exact ⟨s, rfl, by rwa [List.append_nil]⟩
  | cons b p ih =>
    rw [List.length_cons] at hfit
    have hput : (decPut b s).dec.Holds (q ++ [b]) := decPut_holds hs (by omega)
    have hlength : (q ++ [b]).length = q.length + 1 := List.length_append
    obtain ⟨t, hfeed, ht⟩ := ih hput (by omega)
    have hcount := hs.count
    refine ⟨t, ?_, by rwa [List.append_assoc] at ht⟩
    rw [decFeed_escaped_cons (by omega) hs.mode, hfeed]

end

/-- Settles O32: the start byte empties the payload, the body fills it, the stop byte yields it. -/
theorem decoderRecoversEveryPayload : Obligations.DecoderRecoversEveryPayload := by
  intro p s hp hst hlen hbuf
  have hframe : frameEncode p = (0x7C :: escaped p) ++ [0x7D] := rfl
  have hempty : DecoderRegs.Holds [] { s.dec with st := .body, len := 0 } := ⟨rfl, rfl, hbuf, rfl⟩
  obtain ⟨t, hfeed, ht⟩ := decFeed_escaped p
    (s := { s with dec := { s.dec with st := .body, len := 0 } }) hempty (by simpa using hp)
  rw [List.nil_append] at ht
  have hreceived : t.received = p := by rw [State.received, ht.count, ht.bytes]
  refine ⟨t, t.setDecoder .hunt, ?_, ?_, ?_, rfl⟩
  · rw [hframe, List.dropLast_concat, decFeed_cons_of_none (decStep_start hlen hst), hfeed]
  · rw [decStep_body_stop (ht.count ▸ hp) ht.mode, hreceived]
  · rw [hframe, List.getLast?_concat]

/-- Settles O33, by the equations of `DecStep` and of `Put`. -/
theorem decoderStepTable : Obligations.DecoderStepTable := by
  intro b s hlen
  have hdata : (s.dec.st = .esc ∨ (s.dec.st = .body ∧ b ≠ 0x7C ∧ b ≠ 0x7D ∧ b ≠ 0x7E)) →
      decStep b s = .next (decPut b (s.setDecoder .body), none) := fun h =>
    decStep_put hlen (h.imp_right fun ⟨hst, hb⟩ =>
      ⟨hst, framingByte_eq_false_iff.mpr hb⟩)
  refine ⟨?_, decStep_hunt_other hlen, fun h hroom => ?_, fun h hfull => ?_, ?_, ?_, ?_⟩
  · rintro hst rfl
    exact decStep_hunt_start hlen hst
  · rw [hdata h, decPut_room (s := s.setDecoder .body) hroom]
    rfl
  · rw [hdata h, decPut_full (s := s.setDecoder .body) hfull]
    rfl
  · rintro hst rfl
    exact decStep_body_esc hlen hst
  · rintro hst rfl
    exact decStep_body_start hlen hst
  · rintro hst rfl
    rw [decStep_body_stop hlen hst, State.received, Memory.readAll_eq_map]
    simp only [Nat.zero_add]
    rfl

/-- Settles O34: each row of `DecStep` completes, and a row that puts keeps the invariant by
`decPut_inv`. -/
theorem decoderStepKeepsDecoderSound : Obligations.DecoderStepKeepsDecoderSound := by
  rintro b s ⟨hst, hlen, hbuf⟩
  cases hmode : s.dec.st with
  | unused3 => exact absurd hmode hst
  | hunt =>
    by_cases hb : b = 0x7C
    · subst hb
      exact ⟨_, _, decStep_hunt_start hlen hmode, ⟨nofun, Nat.zero_le _, hbuf⟩, rfl⟩
    · exact ⟨_, _, decStep_hunt_other hlen hmode hb, ⟨hst, hlen, hbuf⟩, rfl⟩
  | esc =>
    exact ⟨_, _, decStep_esc hlen hmode, decPut_inv (s := s.setDecoder .body) nofun hlen hbuf,
      congrArg (fun u => { u with dec := s.dec }) (decPut_frame b (s.setDecoder .body))⟩
  | body =>
    cases hb : framingByte b with
    | false =>
      exact ⟨_, _, decStep_body_data hlen hmode hb, decPut_inv hst hlen hbuf, decPut_frame b s⟩
    | true =>
      rcases framingByte_iff.mp hb with rfl | rfl | rfl
      · exact ⟨_, _, decStep_body_start hlen hmode, ⟨hst, Nat.zero_le _, hbuf⟩, rfl⟩
      · exact ⟨_, _, decStep_body_stop hlen hmode, ⟨nofun, hlen, hbuf⟩, rfl⟩
      · exact ⟨_, _, decStep_body_esc hlen hmode, ⟨nofun, hlen, hbuf⟩, rfl⟩

end Sys2Proof.Machine

/-! PROOFS. The message builders (44_messages R240 to R251): the payload of each message, and what
staging it leaves alone. -/

namespace Sys2Proof.Machine

theorem withFrame_frameEncode (p : List Byte) (s : State) :
    s.withFrame (frameEncode p) = s.pending p := rfl

/-- A 32-bit field goes low byte first (R80). -/
theorem le32_eq_ofNat (v : U32) :
    le32 v = [BitVec.ofNat 8 v.toNat, BitVec.ofNat 8 (v.toNat / 2 ^ 8),
      BitVec.ofNat 8 (v.toNat / 2 ^ 16), BitVec.ofNat 8 (v.toNat / 2 ^ 24)] := by
  simp [le32, BitVec.extractLsb', Nat.shiftRight_eq_div_pow]

/-- The wire's unit of a duration is four ticks (R10). -/
theorem toNat_scaled (d : U32) : (d >>> 2).toNat = d.toNat / 4 :=
  (BitVec.toNat_ushiftRight d 2).trans (Nat.shiftRight_eq_div_pow ..)

/-- The on duration is cut to its low byte after it is scaled (R240). -/
theorem setWidth_scaled_eq_ofNat (d : U32) :
    (d >>> 2).setWidth 8 = BitVec.ofNat 8 (d.toNat / 4) := by
  rw [← toNat_scaled, BitVec.ofNat_toNat]

/-- The payload of AXLE (R240). -/
theorem encode_msgAxle (on off : U32) :
    encode (.msgAxle on off) = [0x01, BitVec.ofNat 8 (on.toNat / 4),
      BitVec.ofNat 8 (off.toNat / 4), BitVec.ofNat 8 (off.toNat / 4 / 2 ^ 8),
      BitVec.ofNat 8 (off.toNat / 4 / 2 ^ 16), BitVec.ofNat 8 (off.toNat / 4 / 2 ^ 24)] := by
  rw [encode, setWidth_scaled_eq_ofNat, le32_eq_ofNat, toNat_scaled]

/-- The payload of AXLE_ERR (R241). -/
theorem encode_msgAxleErr (off : U32) :
    encode (.msgAxleErr off) = [0x02, BitVec.ofNat 8 (off.toNat / 4),
      BitVec.ofNat 8 (off.toNat / 4 / 2 ^ 8), BitVec.ofNat 8 (off.toNat / 4 / 2 ^ 16),
      BitVec.ofNat 8 (off.toNat / 4 / 2 ^ 24)] := by
  rw [encode, le32_eq_ofNat, toNat_scaled]

/-- The payload of START (R248). -/
theorem encode_msgStart (pid : U16) (ts : U32) :
    encode (.msgStart pid ts) = [0x09, BitVec.ofNat 8 pid.toNat,
      BitVec.ofNat 8 (pid.toNat / 2 ^ 8), BitVec.ofNat 8 ts.toNat,
      BitVec.ofNat 8 (ts.toNat / 2 ^ 8), BitVec.ofNat 8 (ts.toNat / 2 ^ 16),
      BitVec.ofNat 8 (ts.toNat / 2 ^ 24)] := by
  rw [encode, le16_eq_ofNat, le32_eq_ofNat]
  rfl

/-- Settles O21: the next state is that of `exec_message`, whose frame is written from index 0. -/
theorem messageFrame : Obligations.MessageFrame := by
  intro i s t hi ht
  obtain rfl : s.withFrame (frameEncode (encode i)) = t := by
    simpa [exec_message hi] using ht
  exact ⟨rfl, rfl, fun a ha => Memory.read_writeAll_outside _ s.tx.buf 0 a (by omega)⟩

/-- Settles O22, by the payload of AXLE. -/
theorem axleMessagePayload : Obligations.AxleMessagePayload := by
  intro on off s
  rw [exec_message rfl, withFrame_frameEncode, encode_msgAxle]

/-- Settles O23, by the payload of AXLE_ERR. -/
theorem axleErrorMessagePayload : Obligations.AxleErrorMessagePayload := by
  intro off s
  rw [exec_message rfl, withFrame_frameEncode, encode_msgAxleErr]

/-- Settles O24: of each of the seven, `encode` is the header and the operand as they stand. -/
theorem twoByteMessagePayloads : Obligations.TwoByteMessagePayloads := fun c s =>
  ⟨exec_message (i := .msgSetupOk c) rfl s, exec_message (i := .msgSetupErr c) rfl s,
    exec_message (i := .msgRepOn c) rfl s, exec_message (i := .msgRepOff c) rfl s,
    exec_message (i := .msgRepErr c) rfl s, exec_message (i := .msgRepLen c) rfl s,
    exec_message (i := .msgEcho c) rfl s⟩

/-- Settles O25, by the payloads of START and STOP. -/
theorem startAndStopMessagePayloads : Obligations.StartAndStopMessagePayloads := by
  intro pid n ts s
  constructor
  · rw [exec_message rfl, withFrame_frameEncode, encode_msgStart]
  · rw [exec_message rfl, withFrame_frameEncode, encode_msgStop]

end Sys2Proof.Machine

/-! PROOFS. The command set (45_commands R260 to R277): what each command leaves in IDLE, read off
`exec_command_idle`, what the session gates, and what no command writes. -/

namespace Sys2Proof.Machine

theorem windowOfExponent_eq_ofNat {e : Byte} (h : e.toNat ≤ 5) :
    windowOfExponent e = BitVec.ofNat 8 (2 ^ e.toNat) := by
  rw [← windowOfExponent_toNat h, BitVec.ofNat_toNat, BitVec.setWidth_eq]

/-! Outside IDLE (R260). -/

section
variable {i : Instr} {s : State}

theorem exec_command_armed (hi : isCommand i = true) (h : s.ss.sess.armed = true) :
    exec i s = .next s.ackRx := by
  obtain ⟨run, hrun⟩ := exec_command_eq_whenIdle hi s
  rw [hrun, whenIdle_armed run h]

theorem exec_command_sleep (hi : isCommand i = true) (h : s.ss.sess = .sleep) :
    exec i s = .next s := by
  obtain ⟨run, hrun⟩ := exec_command_eq_whenIdle hi s
  rw [hrun, whenIdle_sleep run h]

end

/-! Each configuration register has one set command that writes it (R277). -/

section
variable {i : Instr} (c : Cfg)

theorem configAfter_sumLen (h : ∀ e, i ≠ .setLen e) : (configAfter i c).sumLen = c.sumLen := by
  cases i with
  | setLen e => exact absurd rfl (h e)
  | setOn | setOff => rw [configAfter]; split_ifs <;> rfl
  | _ => rfl

theorem configAfter_thrOn (h : ∀ v, i ≠ .setOn v) : (configAfter i c).thrOn = c.thrOn := by
  cases i with
  | setOn v => exact absurd rfl (h v)
  | setLen | setOff => rw [configAfter]; split_ifs <;> rfl
  | _ => rfl

theorem configAfter_thrOff (h : ∀ v, i ≠ .setOff v) : (configAfter i c).thrOff = c.thrOff := by
  cases i with
  | setOff v => exact absurd rfl (h v)
  | setLen | setOn => rw [configAfter]; split_ifs <;> rfl
  | _ => rfl

theorem configAfter_thrErrS (h : ∀ v, i ≠ .setErr v) :
    (configAfter i c).thrErrS = c.thrErrS := by
  cases i with
  | setErr v => exact absurd rfl (h v)
  | setLen v | setOn | setOff => rw [configAfter]; split_ifs <;> rfl
  | _ => rfl

end

/-- The reply is written from index 0, so the buffer behind its frame is left alone (R297). -/
theorem answered_read_above (c : Cfg) {p : List Byte} (s : State) {a : Nat}
    (ha : (frameEncode p).length ≤ a) : (s.answered c p).tx.buf.read a = s.tx.buf.read a :=
  Memory.read_writeAll_outside _ s.tx.buf 0 a (by omega)

/-- Settles O11, by `exec_command_idle`: ECHO writes no register. -/
theorem echoCommandReplies : Obligations.EchoCommandReplies := fun _ _ hs hc =>
  exec_command_idle rfl (decide_eq_true hc) hs

/-- Settles O12, by `exec_command_idle`: SETERR validates nothing. -/
theorem setErrCommandWrites : Obligations.SetErrCommandWrites := fun _ _ hs hv =>
  exec_command_idle rfl (decide_eq_true hv) hs

/-- Settles O13: the register and the reply of `exec_command_idle` turn on the same comparison. -/
theorem setOffCommandValidates : Obligations.SetOffCommandValidates := by
  intro s v hs hv
  rw [exec_command_idle (i := .setOff v) rfl (decide_eq_true hv) hs]
  simp only [configAfter, replyOf, thresholdLegal_iff]
  split_ifs
  · rfl
  · rfl

/-- Settles O14: the register and the reply of `exec_command_idle` turn on the same comparison. -/
theorem setOnCommandValidates : Obligations.SetOnCommandValidates := by
  intro s v hs hv
  rw [exec_command_idle (i := .setOn v) rfl (decide_eq_true hv) hs]
  simp only [configAfter, replyOf, thresholdLegal_iff]
  split_ifs
  · rfl
  · rfl

/-- Settles O15: the window of the exponent `e` is `2 ^ e` samples, and both thresholds are compared
with half of it. -/
theorem setLenCommandValidates : Obligations.SetLenCommandValidates := by
  intro s e hs h1 h5
  have hw : (Instr.setLen e).wellFormed = true :=
    Bool.and_eq_true_iff.mpr ⟨decide_eq_true h1, decide_eq_true h5⟩
  rw [exec_command_idle rfl hw hs]
  simp only [configAfter, replyOf, Bool.and_eq_true, thresholdLegal_iff, windowOfExponent_toNat h5]
  split_ifs
  · rw [windowOfExponent_eq_ofNat h5]
  · rfl

/-- Settles O16: the value each report carries is that of its register. -/
theorem getCommandsReport : Obligations.GetCommandsReport := fun _ hs =>
  ⟨exec_command_idle (i := .getLen) rfl rfl hs, exec_command_idle (i := .getOn) rfl rfl hs,
    exec_command_idle (i := .getOff) rfl rfl hs, exec_command_idle (i := .getErr) rfl rfl hs⟩

/-- Settles O17: the ranges of R274 are the INVALID class of R101. -/
theorem invalidByteAnswersSetupError : Obligations.InvalidByteAnswersSetupError := fun _ _ hs hb =>
  exec_command_idle rfl (invalidByte_iff.mpr hb) hs

/-- Settles O18, by the gate of R260. -/
theorem commandsOutsideIdle : Obligations.CommandsOutsideIdle := fun _ _ hi =>
  ⟨exec_command_armed hi, exec_command_sleep hi⟩

/-- Settles O20: `answered` writes the configuration, the acknowledgement and the staging registers
alone, and `configAfter` no register but the command's own. -/
theorem commandFrame : Obligations.CommandFrame := by
  intro i s t hi hw hs ht
  obtain rfl : s.answered (configAfter i s.cfg) (replyOf i s.cfg) = t := by
    simpa [exec_command_idle hi hw hs] using ht
  exact ⟨rfl, rfl, rfl, rfl, rfl, rfl, rfl, rfl, configAfter_sumLen s.cfg, configAfter_thrOn s.cfg,
    configAfter_thrOff s.cfg, configAfter_thrErrS s.cfg, fun _ => answered_read_above _ s⟩

end Sys2Proof.Machine

/-! PROOFS. The transmit port (46_tick_step R297, R298): a staged frame is read back from the staging
buffer and leaves byte by byte. -/

namespace Sys2Proof.Machine

/-! Staging (R297). -/

/-- The frame of a payload that a builder makes fits `tx_buf` (R221). -/
theorem frameEncode_fits {p : List Byte} (h : p.length ≤ 7) :
    (frameEncode p).length ≤ Config.txBufMax := by
  have hle := frameEncode_length_le p
  have hcap : Config.txBufMax = 16 := rfl
  omega

/-- `tx_len` has room for the length of every frame that fits `tx_buf`. -/
theorem withFrame_len_toNat {f : List Byte} (h : f.length ≤ Config.txBufMax) (s : State) :
    (s.withFrame f).tx.len.toNat = f.length := by
  have hcap : Config.txBufMax = 16 := rfl
  rw [State.withFrame_tx, BitVec.toNat_ofNat]
  exact Nat.mod_eq_of_lt (by omega)

/-- Settles O29: `Stage` leaves `withFrame`, whatever was pending, and its reads are those of
`withFrame_read`. -/
theorem stageReplacesPending : Obligations.StageReplacesPending := by
  intro p s hp hbuf
  have hfit := frameEncode_fits hp
  obtain ⟨hinside, habove, hcanonical⟩ := withFrame_read hfit hbuf
  exact ⟨_, stage_short hp s, hinside, habove, withFrame_len_toNat hfit s, rfl, rfl, hcanonical⟩

/-! Sending (R298). -/

section
variable {inp : Inputs} {s : State}

/-- With `tx_pos` in range, the byte sent is the last one exactly when the counts say so: the 5-bit
increment does not wrap. -/
theorem sendByte_eq (hpos : s.tx.pos.toNat < s.tx.len.toNat) (hlen : s.tx.len.toNat ≤ 16) :
    s.sendByte = { s with
      out := { s.out with tx := some (s.tx.buf.read s.tx.pos.toNat) }
      tx := if s.tx.pos.toNat + 1 = s.tx.len.toNat then { s.tx with len := 0, pos := 0 }
            else { s.tx with pos := s.tx.pos + 1 } } := by
  have hlast : s.tx.pos + 1 = s.tx.len ↔ s.tx.pos.toNat + 1 = s.tx.len.toNat := by bv_omega
  simp only [State.sendByte, hlast]

theorem transmitPhase_sends (hsess : s.ss.sess ≠ .sleep) (hready : inp.txReady = true)
    (hpos : s.tx.pos.toNat < s.tx.len.toNat) (hlen : s.tx.len.toNat ≤ 16) :
    transmitPhase inp s = .next s.sendByte := by
  have hpending : s.tx.len ≠ 0 := by bv_omega
  have hinside : s.tx.pos.toNat < 16 := by omega
  exact transmitPhase_next_iff.mpr (.inl ⟨sends_iff.mpr ⟨⟨hsess, hpending⟩, hready⟩, hinside, rfl⟩)

theorem transmitPhase_holds
    (h : s.ss.sess = .sleep ∨ s.tx.len = 0 ∨ inp.txReady = false) :
    transmitPhase inp s = .next s := by
  have hsends : sends inp s = false := by
    rcases h with h | h | h <;> simp [sends, h]
  exact transmitPhase_next_iff.mpr (.inr ⟨hsends, rfl⟩)

/-- Settles O30: the two branches of the transmit phase. -/
theorem transmitPhaseSendsOneByte : Obligations.TransmitPhaseSendsOneByte := by
  intro inp s
  refine ⟨fun hsess _ hready hpos hlen => ?_, transmitPhase_holds⟩
  rw [transmitPhase_sends hsess hready hpos hlen, sendByte_eq hpos hlen]

/-- A byte that is not the last one leaves the frame pending, one byte further on. -/
theorem sendByte_tx_more (hmore : s.tx.pos.toNat + 1 < s.tx.len.toNat)
    (hlen : s.tx.len.toNat ≤ 16) :
    s.sendByte.tx = { s.tx with pos := s.tx.pos + 1 } ∧
      (s.tx.pos + 1).toNat = s.tx.pos.toNat + 1 := by
  refine ⟨?_, by bv_omega⟩
  rw [sendByte_eq (by omega) hlen]
  exact if_neg (by omega)

/-- After the last byte nothing is pending. -/
theorem sendByte_tx_last (hlast : s.tx.pos.toNat + 1 = s.tx.len.toNat)
    (hlen : s.tx.len.toNat ≤ 16) : s.sendByte.tx = { s.tx with len := 0, pos := 0 } := by
  rw [sendByte_eq (by omega) hlen]
  exact if_pos hlast

/-- A transmit phase of a drain that sends: the byte at `tx_pos` comes before what the rest of the
drain sends. -/
theorem drain_succ (n : Nat) (hsess : s.ss.sess ≠ .sleep) (hready : inp.txReady = true)
    (hpos : s.tx.pos.toNat < s.tx.len.toNat) (hlen : s.tx.len.toNat ≤ 16) :
    drain inp (n + 1) s = andThen (drain inp n s.sendByte) fun r =>
      .next (r.1, s.tx.buf.read s.tx.pos.toNat :: r.2) := by
  have hsend : transmitPhase inp { s with out := { s.out with tx := none } } = .next s.sendByte :=
    transmitPhase_sends (s := { s with out := { s.out with tx := none } }) hsess hready hpos hlen
  rw [drain, hsend]
  rfl

/-- The state once the pending frame has left, with the output ports `o`. -/
def State.drained (o : Outputs) (s : State) : State :=
  { s with tx := { s.tx with len := 0, pos := 0 }, out := o }

/-- The `n + 1` bytes that stand from `tx_pos` to the end of the pending frame leave in order, and
nothing is pending after them. -/
theorem drain_pending (n : Nat) (hsess : s.ss.sess ≠ .sleep) (hready : inp.txReady = true)
    (hrest : s.tx.pos.toNat + (n + 1) = s.tx.len.toNat) (hlen : s.tx.len.toNat ≤ 16) :
    ∃ o, drain inp (n + 1) s =
      .next (s.drained o, s.tx.buf.readAll s.tx.pos.toNat (n + 1)) := by
  induction n generalizing s with
  | zero =>
    have hdrained : s.sendByte = s.drained s.sendByte.out := by
      rw [State.drained, ← sendByte_tx_last hrest hlen]
      rfl
    refine ⟨s.sendByte.out, ?_⟩
    rw [drain_succ 0 hsess hready (by omega) hlen, drain, andThen_next, ← hdrained]
    rfl
  | succ n ih =>
    obtain ⟨htx, hnext⟩ := sendByte_tx_more (s := s) (by omega) hlen
    have hpos : s.sendByte.tx.pos.toNat = s.tx.pos.toNat + 1 := by rw [htx, ← hnext]
    have hend : s.sendByte.tx.len = s.tx.len := by rw [htx]
    have hdrained (o : Outputs) : s.sendByte.drained o = s.drained o := by
      rw [State.drained, htx]
      rfl
    obtain ⟨o, hdrain⟩ := ih (s := s.sendByte) hsess (by rw [hpos, hend]; omega) (hend ▸ hlen)
    refine ⟨o, ?_⟩
    rw [drain_succ (n + 1) hsess hready (by omega) hlen, hdrain, andThen_next, hdrained, hpos, htx]
    rfl

end

/-- The elements of a memory that agree with a list from index 0 on, read in a row, are that list. -/
theorem Memory.readAll_eq_of_read {w : Nat} {m : Memory w} {l : List (BitVec w)}
    (h : ∀ a (ha : a < l.length), m.read a = l[a]) : m.readAll 0 l.length = l := by
  rw [Memory.readAll_eq_map]
  refine List.ext_getElem (by simp) fun a _ ha => ?_
  simpa using h a ha

/-- Settles O31: the pending frame drains whole, and the buffer holds the staged one. -/
theorem stagedFrameLeavesWhole : Obligations.StagedFrameLeavesWhole := by
  intro p s inp hp hbuf hsess hready
  have hfit := frameEncode_fits hp
  have hlen := withFrame_len_toNat hfit s
  obtain ⟨hread, -⟩ := withFrame_read hfit hbuf
  obtain ⟨o, hdrain⟩ : ∃ o, drain inp (frameEncode p).length (s.withFrame (frameEncode p)) =
      .next ((s.withFrame (frameEncode p)).drained o,
        (s.withFrame (frameEncode p)).tx.buf.readAll 0 (frameEncode p).length) :=
    drain_pending (escaped p ++ [Config.frameStop]).length hsess hready
      ((Nat.zero_add _).trans hlen.symm) (hlen ▸ hfit)
  rw [Memory.readAll_eq_of_read hread] at hdrain
  exact ⟨_, _, stage_short hp s, hdrain, rfl, rfl, rfl⟩

end Sys2Proof.Machine

/-! PROOFS. The step as a composition of its four phases (46_tick_step R290 to R295, R302). -/

namespace Sys2Proof.Machine

/-! The command phase (R293). -/

section
variable {inp : Inputs} {s : State}

theorem commandPhase_quiet (h : inp.rxValid = false) : commandPhase inp s = .next s := by
  simp [commandPhase, h]

theorem commandPhase_offered (h : inp.rxValid = true) :
    commandPhase inp s = exec (decodeCommand inp.rxByte) s := if_pos h

end

/-- Settles O19: the rows of R293 are those of the gate on a command (R260). -/
theorem commandPhaseTable : Obligations.CommandPhaseTable := by
  intro inp s _
  refine ⟨commandPhase_quiet, fun hv hidle => ?_, fun hv harmed => ?_, fun hv hsleep => ?_⟩
  · have hexec := exec_command_idle (isCommand_decodeCommand inp.rxByte)
      (decodeCommand_wellFormed _) hidle
    exact ⟨commandPhase_offered hv, _, (commandPhase_offered hv).trans hexec, rfl⟩
  · rw [commandPhase_offered hv,
      exec_command_armed (isCommand_decodeCommand _) (armed_iff.mpr harmed)]
    rfl
  · rw [commandPhase_offered hv, exec_command_sleep (isCommand_decodeCommand _) hsleep]

/-! The four phases in order (R290). -/

section
variable {s : State}

theorem step_eq (s : State) :
    step s = andThen (wheelPhase s.inputs s.beginStep) fun r =>
      andThen (commandPhase s.inputs r.1) fun u =>
        andThen (sessionPhase s.inputs r.2 u) fun v => transmitPhase s.inputs v := rfl

theorem step_quiet (hv : s.inputs.rxValid = false) :
    step s = andThen (wheelPhase s.inputs s.beginStep) fun r =>
      andThen (sessionPhase s.inputs r.2 r.1) fun v => transmitPhase s.inputs v := by
  simp only [step_eq, commandPhase_quiet hv, andThen_next]

theorem step_offered (hv : s.inputs.rxValid = true) :
    step s = andThen (wheelPhase s.inputs s.beginStep) fun r =>
      andThen (exec (decodeCommand s.inputs.rxByte) r.1) fun u =>
        andThen (sessionPhase s.inputs r.2 u) fun v => transmitPhase s.inputs v := by
  simp only [step_eq, commandPhase_offered hv]

/-- In IDLE the wheel phase does nothing (R291). -/
theorem step_offered_idle (hv : s.inputs.rxValid = true) (hidle : s.ss.sess = .idle) :
    step s = andThen (exec (decodeCommand s.inputs.rxByte) s.beginStep) fun u =>
      andThen (sessionPhase s.inputs .none u) fun v => transmitPhase s.inputs v := by
  have hunarmed : s.beginStep.ss.sess.armed = false := by rw [State.beginStep_ss, hidle]; rfl
  rw [step_offered hv, wheelPhase_unarmed hunarmed, andThen_next]

end

/-- Settles O5: a list of one byte decodes to the command the command phase runs. -/
theorem stepRunsOfferedInstruction : Obligations.StepRunsOfferedInstruction := by
  intro s
  refine ⟨rfl, rfl, step_eq s, step_quiet, fun i hv hi => ?_⟩
  obtain rfl : decodeCommand s.inputs.rxByte = i := by simpa [decode] using hi
  exact ⟨step_offered hv, step_offered_idle hv⟩

/-- Settles O55: the host side is taken at the start, and the frames of the four phases name neither
it, the decoder nor the parameters. -/
theorem stepLeavesDecoderAndParameters : Obligations.StepLeavesDecoderAndParameters := by
  intro s t h
  obtain ⟨a, ev, b, c, hwheel, hcmd, hsess, htx⟩ := step_next h
  obtain ⟨_, _, _, rfl⟩ := wheelPhase_frame hwheel
  obtain ⟨_, _, _, rfl⟩ := commandPhase_frame hcmd
  obtain ⟨_, _, _, _, _, rfl⟩ := sessionPhase_frame hsess
  obtain ⟨_, _, rfl⟩ := transmitPhase_frame htx
  exact ⟨rfl, rfl, rfl, rfl⟩

/-- A SETLEN byte whose window keeps both thresholds legal is accepted (R101, R267). -/
theorem exec_setLen_byte {b : Byte} {s : State} (hidle : s.ss.sess = .idle)
    (h11 : 11 ≤ b.toNat) (h15 : b.toNat ≤ 15)
    (hon : s.cfg.thrOn.toNat < 2 ^ (b.toNat - 10) / 2)
    (hoff : s.cfg.thrOff.toNat < 2 ^ (b.toNat - 10) / 2) :
    exec (decodeCommand b) s = .next (s.answered
      { s.cfg with sumLen := BitVec.ofNat 8 (2 ^ (b.toNat - 10)) } [0x03, b]) := by
  have hexp : (b - 10).toNat = b.toNat - 10 := by bv_omega
  have hbyte : 10 + (b - 10) = b := by bv_omega
  rw [decodeCommand_setLen ⟨h11, h15⟩,
    setLenCommandValidates s (b - 10) hidle (by omega) (by omega), hexp, hbyte, if_pos ⟨hon, hoff⟩]

/-- The window that a SETLEN byte commands fits its register and meets the setup's precondition
(R103, R132). -/
theorem setLen_byte_window {b : Byte} (h11 : 11 ≤ b.toNat) (h15 : b.toNat ≤ 15) :
    1 ≤ 2 ^ (b.toNat - 10) ∧ 2 ^ (b.toNat - 10) ≤ 32 ∧
      (BitVec.ofNat 8 (2 ^ (b.toNat - 10))).toNat = 2 ^ (b.toNat - 10) := by
  have hle : 2 ^ (b.toNat - 10) ≤ 2 ^ 5 := Nat.pow_le_pow_right (by decide) (by omega)
  refine ⟨Nat.one_le_two_pow, hle, ?_⟩
  rw [BitVec.toNat_ofNat]
  exact Nat.mod_eq_of_lt (by omega)

/-- Settles O58: the command phase has written the window before `Arm` reads it (R295). -/
theorem commandBeforeArmingInOneStep : Obligations.CommandBeforeArmingInOneStep := by
  rintro s b hidle hbuf hv rfl harm hready h11 h15 hon hoff
  obtain ⟨h1, h32, hwindow⟩ := setLen_byte_window h11 h15
  have hexec := exec_setLen_byte (s := s.beginStep) hidle h11 h15 hon hoff
  have harming := armingStartsSession s.inputs .none (s.beginStep.answered
    { s.beginStep.cfg with sumLen := BitVec.ofNat 8 (2 ^ (s.inputs.rxByte.toNat - 10)) }
    [0x03, s.inputs.rxByte]) hidle harm (h1.trans_eq hwindow.symm) (hwindow.trans_le h32) hbuf
  have hlen : (BitVec.ofNat 6 (BitVec.ofNat 8 (2 ^ (s.inputs.rxByte.toNat - 10))).toNat).toNat
      = 2 ^ (s.inputs.rxByte.toNat - 10) := by
    rw [hwindow, BitVec.toNat_ofNat]
    exact Nat.mod_eq_of_lt (by omega)
  rw [step_offered_idle hv hidle, hexec, andThen_next, harming, andThen_next,
    transmitPhase_holds (.inr (.inr hready))]
  exact ⟨_, rfl, rfl, rfl, hlen, rfl⟩

end Sys2Proof.Machine

/-! PROOFS. The power state SLEEP (60_exceptions R326). -/

namespace Sys2Proof.Machine

section
variable {inp : Inputs} {s : State}

/-- In SLEEP an offered byte is not consumed (R293). -/
theorem commandPhase_sleep (h : s.ss.sess = .sleep) : commandPhase inp s = .next s := by
  cases hv : inp.rxValid with
  | false => exact commandPhase_quiet hv
  | true => rw [commandPhase_offered hv, exec_command_sleep (isCommand_decodeCommand _) h]

/-- In SLEEP with `sleep_in = 1` each of the four phases passes the state on, so a step only takes
the tick. -/
theorem step_sleep (h : s.ss.sess = .sleep) (hin : s.inputs.sleepIn = true) :
    step s = .next s.beginStep := by
  have hsleep : s.beginStep.ss.sess = .sleep := h
  have hwheel : wheelPhase s.inputs s.beginStep = .next (s.beginStep, .none) :=
    wheelPhase_unarmed (by rw [hsleep]; rfl)
  have hsession : sessionPhase s.inputs .none s.beginStep = .next s.beginStep :=
    (sessionPhase_sleep hsleep).trans (if_pos hin)
  rw [step_eq, hwheel, andThen_next, commandPhase_sleep hsleep, andThen_next, hsession,
    andThen_next, transmitPhase_holds (.inl hsleep)]

end

/-- Settles O57: the step leaves the state that the tick was taken from, whose registers are those
of `s` and whose ports are quiet. -/
theorem sleepHoldsEveryRegister : Obligations.SleepHoldsEveryRegister :=
  fun s hsleep hin => ⟨s.beginStep, step_sleep hsleep hin, rfl, rfl, rfl⟩

end Sys2Proof.Machine
